-- ==== Sys2Proof/Word.lean ====
section
/-! DEFINITION. The words of HUFFCORE: 32-bit registers and command words, bytes, and bit sequences. -/

namespace Sys2Proof

/-- A register, a parameter, a counter or a command word: REG_W = 32 bits, unsigned (00_scope R9, R12). -/
abbrev Word := BitVec 32

/-- A byte of data memory, and a symbol: "one byte value, domain 0–255" (00_scope R8). -/
abbrev Byte := BitVec 8

/-- A bit sequence, first bit emitted or consumed first; `true` is the bit 1 (00_scope R13, R14).
A code is a bit sequence, and the empty one means "no code" (10_state R52). -/
abbrev Code := List Bool

end Sys2Proof
end

