-- ==== Sys2Proof/Syntax.lean ====
section
/-! DEFINITION. The commands of HUFFCORE: one constructor per row of spec/opcode_table.json (30_encoding R105 to R109).
A command names no operand; only the catch-all ILLEGAL row has fields. -/

namespace Sys2Proof

/-- One command word, decoded. -/
inductive Instr where
  /-- NOP, opcode 0x0 (45_control R293). -/
  | nop
  /-- FREQ_CLEAR, opcode 0x1 (40_frequency R151). -/
  | freqClear
  /-- FREQ_ACCUM, opcode 0x2 (40_frequency R153). -/
  | freqAccum
  /-- BUILD_CODES, opcode 0x3 (41_tree_and_codes R180). -/
  | buildCodes
  /-- ENCODE, opcode 0x4 (43_encoder R222). -/
  | encode
  /-- COMPRESS, opcode 0x5 (43_encoder R232). -/
  | compress
  /-- PARSE_HEADER, opcode 0x6 (44_decoder R261). -/
  | parseHeader
  /-- DECOMPRESS, opcode 0x7 (44_decoder R270). -/
  | decompress
  /-- Every word to which the rows above give no command, with its OPCODE and RESERVED fields (30_encoding R109;
  45_control R294). -/
  | illegal (opcode : BitVec 4) (reserved : BitVec 28)
  deriving DecidableEq, Repr

end Sys2Proof
end

