-- ==== Sys2Proof/WellFormed.lean ====
section
/-! DEFINITION. The one check on a command as syntax: an ILLEGAL command holds a word that no other row matches. -/

namespace Sys2Proof

/-- An illegal command word has OPCODE 0x8 to 0xF, or RESERVED ≠ 0 whatever OPCODE is (30_encoding R109). Every other
constructor is a whole row of the table and has nothing to check. -/
def Instr.wf : Instr → Bool
  | .nop => true
  | .freqClear => true
  | .freqAccum => true
  | .buildCodes => true
  | .encode => true
  | .compress => true
  | .parseHeader => true
  | .decompress => true
  | .illegal opcode reserved => decide (8 ≤ opcode.toNat) || reserved != 0

end Sys2Proof
end

