-- ==== Sys2Proof/Decode.lean ====
section
/-! DEFINITION. The command word's decoder, total on every write, and after it the encoder, both from the opcode map
(30_encoding R105 to R109). -/

namespace Sys2Proof

/-- Why a written value is no command word. -/
inductive DecodeReject where
  /-- The format is one 32-bit word (30_encoding R105): the write has another width. -/
  | notOneWord (nbits : Nat)
  /-- The value has bits beyond the width it is said to have. -/
  | valueTooWide (nbits : Nat) (value : Nat)
  deriving DecidableEq, Repr

/-- OPCODE, bits 3:0 of the command word (30_encoding R106). -/
def opcodeField (w : Word) : BitVec 4 := w.extractLsb' 0 4

/-- RESERVED, bits 31:4 of the command word (30_encoding R106). -/
def reservedField (w : Word) : BitVec 28 := w.extractLsb' 4 28

/-- The opcode map: RESERVED = 0 and OPCODE 0 to 7 select the eight commands, every other word is illegal
(30_encoding R108, R109). -/
def decodeWord (w : Word) : Instr :=
  if reservedField w = 0 then
    match (opcodeField w).toNat with
    | 0 => .nop
    | 1 => .freqClear
    | 2 => .freqAccum
    | 3 => .buildCodes
    | 4 => .encode
    | 5 => .compress
    | 6 => .parseHeader
    | 7 => .decompress
    | _ => .illegal (opcodeField w) (reservedField w)
  else .illegal (opcodeField w) (reservedField w)

/-- The decoder on a write of any width and value: total, rejecting by name what is no 32-bit word. -/
def decodeWrite (nbits value : Nat) : Except DecodeReject Instr :=
  if nbits ≠ 32 then .error (.notOneWord nbits)
  else if 2 ^ nbits ≤ value then .error (.valueTooWide nbits value)
  else .ok (decodeWord (BitVec.ofNat 32 value))

/-- The decoder on a row of spec/opcode_table.json: the row gives `nbits` bits of the word and the bits above them are
0, so the word written is `w` itself (log 11). -/
def decodeTableWord (nbits w : Nat) : Option Instr :=
  if 32 < nbits ∨ 2 ^ nbits ≤ w then none
  else
    match decodeWrite 32 w with
    | .ok i => some i
    | .error _ => none

/-- The command word of a command, from the opcode map (30_encoding R106, R108). -/
def encode : Instr → Word
  | .nop => 0x00000000
  | .freqClear => 0x00000001
  | .freqAccum => 0x00000002
  | .buildCodes => 0x00000003
  | .encode => 0x00000004
  | .compress => 0x00000005
  | .parseHeader => 0x00000006
  | .decompress => 0x00000007
  | .illegal opcode reserved => reserved ++ opcode

end Sys2Proof
end

