-- ==== Sys2Proof/Config.lean ====
section
/-! DEFINITION. What is fixed for the block (00_scope R9), the platform's parameter BASE (00_scope R10), and the free
values: constants without a body, of which nothing can be proved but that they are values. -/

namespace Sys2Proof

/-- ALPHABET: 256 symbols (00_scope R8). -/
def Config.alphabet : Nat := 256

/-- The data memory has addresses 0 to 2^32 - 1, and a region is in range when base + length is at most this
(20_memory R80, R87). -/
def Config.memSize : Nat := 0x100000000

/-- The largest value a 32-bit counter holds; FREQ saturates there (40_frequency R152). -/
def Config.counterMax : Nat := 0xFFFFFFFF

/-- MAX_CODE_LEN (00_scope R9). -/
def Config.maxCodeLen : Nat := 255

/-- MAX_PAD, the largest legal padding count (00_scope R9). -/
def Config.maxPad : Nat := 7

/-- HEADER_LEN, the container header's length in bytes (00_scope R9). -/
def Config.headerLen : Nat := 8

/-- REG_WINDOW, the register window's size in bytes (00_scope R9; 30_encoding R100). -/
def Config.regWindow : Nat := 0x3000

/-- The constant ID reads as (10_state R32). -/
def Config.idValue : Word := 0x48554646

/-- The constant VERSION reads as: major 1, minor 0 (10_state R32). -/
def Config.versionValue : Word := 0x00010000

/-- BASE in units of 0x4000: the platform chooses it and the spec does not (00_scope R10). No body (log 9). -/
opaque Config.baseIndex : Nat

/-- BASE, the platform address of the register window, "a multiple of 0x4000" (00_scope R10). -/
def Config.base : Nat := 0x4000 * Config.baseIndex

/-- The 32-bit value a read draws while it may return any value, by the number of the draw (45_control R297). Free
value, no body (log 4). -/
opaque Config.freeWord : Nat → Word

/-- The byte a draw leaves, or a read draws, at a data-memory address whose byte may be any value, by the number of the
draw and the address (20_memory R86, R93; 70_reset R353). Free value, no body (log 4). -/
opaque Config.freeByte : Nat → Nat → Byte

end Sys2Proof
end

