-- ==== Sys2Proof/Machine/State.lean ====
section
/-! DEFINITION. Everything the spec gives HUFFCORE to hold (10_state), the host's pending operations, and the machine
right after reset. Plain data throughout. -/

namespace Sys2Proof.Machine

/-- The error codes STATUS.ERR_CODE can hold; 9 to 15 are never written (60_exceptions R311). -/
inductive ErrCode where
  | ok
  | malformedHeader
  | invalidCodeTable
  | invalidPadding
  | unresolvableBits
  | noCode
  | dstOverflow
  | region
  | illegalCmd
  deriving DecidableEq, Repr

/-- A file of 256 entries, one per symbol: FREQ and CODE (10_state R51, R52). -/
structure Table (α : Type) where
  entries : List α
  size : entries.length = 256
  deriving DecidableEq, Repr

/-- The file whose 256 entries are all `a`. -/
def Table.fill {α : Type} (a : α) : Table α := ⟨List.replicate 256 a, List.length_replicate⟩

/-- LATCH, what the ENGINE takes at acceptance and a command reads (10_state R56). -/
structure Latch where
  opcode : BitVec 4
  rsvNz : Bool
  srcAddr : Word
  srcLen : Word
  dstAddr : Word
  dstCap : Word
  deriving DecidableEq, Repr

/-- Data memory: the bytes that differ from what an unlisted address reads as, by rising address (20_memory R80, R81;
log 1). -/
abbrev Memory := List Host.Cell

/-- One host operation (30_encoding R110). A register access carries its width in bits and its offset from BASE; a
memory access is one byte at a 32-bit address, of which every one holds a byte (45_control R300; 20_memory R80, R81). -/
inductive HostOp where
  /-- A host write of `v` to the register window: WR (45_control R295). -/
  | wr (width off : Nat) (v : Word)
  /-- A host read of the register window: RD (45_control R297). -/
  | rd (width off : Nat)
  /-- One byte of MEMW (45_control R300). -/
  | memw (addr : Word) (b : Byte)
  /-- One byte of MEMR (45_control R300). -/
  | memr (addr : Word)
  /-- WAIT: a host step whose guard is STATUS.BUSY = 0 (70_reset R360). -/
  | wait
  deriving DecidableEq, Repr

/-- What moves next. The list of them in State fixes the interleaving of host and ENGINE that the spec leaves open
(00_scope R7; 60_exceptions R316; log 3). -/
inductive Event where
  /-- The ENGINE takes its enabled step. -/
  | engine
  /-- The host performs one operation. -/
  | host (op : HostOp)
  /-- The host writes `v` to IRQ_STATUS at the same instant as the ENGINE's completion (10_state R42; 60_exceptions
  R316(c)). -/
  | engineMeetsIrqWrite (v : Word)
  /-- The reset input rst (70_reset R350). -/
  | rst
  deriving DecidableEq, Repr

/-- What a host read returned; a refused read returns no value (45_control R290, R297, R300). -/
inductive Observation where
  | reg (off : Nat) (value : Option Word)
  | mem (addr : Word) (value : Byte)
  deriving DecidableEq, Repr

/-- The machine's state. ID, VERSION, NSYM, the CODE views and irq are not stored (10_state R32, R50, R53, R54, R58). -/
structure State where
  /-- LATCH (10_state R56). -/
  latch : Latch
  /-- STATUS.BUSY (10_state R36). -/
  busy : Bool
  /-- STATUS.DONE (10_state R37). -/
  done : Bool
  /-- STATUS.ERR (10_state R38). -/
  err : Bool
  /-- STATUS.OVR (10_state R39). -/
  ovr : Bool
  /-- STATUS.SAT (10_state R40). -/
  sat : Bool
  /-- STATUS.ERR_CODE (10_state R38). -/
  errCode : ErrCode
  /-- IRQ_EN bits 1:0, ERR_IE and DONE_IE (10_state R41). -/
  irqEn : BitVec 2
  /-- IRQ_STATUS bits 1:0, ERR_IS and DONE_IS (10_state R42). -/
  irqStatus : BitVec 2
  /-- SRC_ADDR (10_state R43). -/
  srcAddr : Word
  /-- SRC_LEN (10_state R44). -/
  srcLen : Word
  /-- DST_ADDR (10_state R45). -/
  dstAddr : Word
  /-- DST_CAP (10_state R46). -/
  dstCap : Word
  /-- OUT_LEN (10_state R47). -/
  outLen : Word
  /-- PAD_COUNT (10_state R48). -/
  padCount : Word
  /-- TABLE_LEN (10_state R49). -/
  tableLen : Word
  /-- The frequency file FREQ (10_state R51). -/
  freq : Table Word
  /-- The code table CODE (10_state R52). -/
  code : Table Code
  /-- The data memory MEM (20_memory R80). -/
  mem : Memory
  /-- The sticky model mark RACE (10_state R59). -/
  race : Bool
  /-- The sticky model mark REFUSED (10_state R59). -/
  refused : Bool
  /-- The model's own: how many free values have been drawn (log 4). -/
  draws : Nat
  /-- The model's own: what moves next, first first (log 3). -/
  events : List Event
  /-- The model's own: what the host's reads returned, newest first (log 5). -/
  observed : List Observation
  deriving DecidableEq, Repr

/-- The reasons a step can stop the machine: none. "No step of the model stops" (93_implementation_defined on
70_reset R367; 20_memory R81). -/
inductive Fault where
  deriving DecidableEq, Repr

/-- The reasons a step has no meaning. -/
inductive Refusal where
  /-- Raised by an arm of exec whose instruction has no meaning yet. Safe: the model stops. No arm raises it now. -/
  | notModelled (mnemonic : String)
  deriving DecidableEq, Repr

/-- The state after reset with data memory `mem`, which reset does not define and a model takes as a parameter
(10_state R70; 70_reset R351). The marks and the model's own fields start at the values log 2 to 5 name. -/
def State.resetWith (mem : Memory) : State where
  latch := { opcode := 0, rsvNz := false, srcAddr := 0, srcLen := 0, dstAddr := 0, dstCap := 0 }
  busy := false
  done := false
  err := false
  ovr := false
  sat := false
  errCode := .ok
  irqEn := 0
  irqStatus := 0
  srcAddr := 0
  srcLen := 0
  dstAddr := 0
  dstCap := 0
  outLen := 0
  padCount := 0
  tableLen := 0
  freq := Table.fill 0
  code := Table.fill []
  mem := mem
  race := false
  refused := false
  draws := 0
  events := []
  observed := []

/-- The machine right after reset: every field as 10_state R70 lists it, and memory with nothing listed (log 1). -/
def State.reset : State := State.resetWith []

end Sys2Proof.Machine
end

