-- ==== Sys2Proof/Machine/Flags.lean ====
section
/-! DEFINITION. Every flag computation: the error code's bits, the STATUS and interrupt words, irq, and what completion
sets in IRQ_STATUS. -/

namespace Sys2Proof.Machine

/-- The number of an error code (60_exceptions R311). -/
def ErrCode.bits : ErrCode → BitVec 4
  | .ok => 0
  | .malformedHeader => 1
  | .invalidCodeTable => 2
  | .invalidPadding => 3
  | .unresolvableBits => 4
  | .noCode => 5
  | .dstOverflow => 6
  | .region => 7
  | .illegalCmd => 8

/-- Whether a completion with this code is one with error: e ≠ OK (60_exceptions R320). -/
def ErrCode.isError (e : ErrCode) : Bool := e != .ok

/-- One bit as a register's bit 0. -/
def flagBit (b : Bool) : Word := if b then 1 else 0

/-- STATUS: 0 BUSY, 1 DONE, 2 ERR, 3 OVR, 4 SAT, 11:8 ERR_CODE; 7:5 and 31:12 read 0 (10_state R35). -/
def State.statusWord (s : State) : Word :=
  flagBit s.busy ||| (flagBit s.done <<< 1) ||| (flagBit s.err <<< 2) ||| (flagBit s.ovr <<< 3) |||
    (flagBit s.sat <<< 4) ||| (s.errCode.bits.setWidth 32 <<< 8)

/-- The bits a completion sets in IRQ_STATUS: DONE_IS always, ERR_IS with error (10_state R42; 60_exceptions R320). -/
def completionIrqBits (e : ErrCode) : BitVec 2 := if e.isError then 3 else 1

/-- The level output irq (10_state R58). -/
def State.irq (s : State) : Bool :=
  (s.irqStatus.getLsbD 0 && s.irqEn.getLsbD 0) || (s.irqStatus.getLsbD 1 && s.irqEn.getLsbD 1)

/-- A host write of 1 clears an IRQ_STATUS bit and of 0 keeps it (10_state R42; 45_control R295). -/
def irqCleared (old : BitVec 2) (v : Word) : BitVec 2 := old &&& ~~~(v.setWidth 2)

/-- SatAdd(f, c) = min(f + c, 2^32 - 1), on the exact sum (40_frequency R152). -/
def satAdd (f : Word) (c : Nat) : Word := BitVec.ofNat 32 (min (f.toNat + c) Config.counterMax)

/-- The sum saturates when it exceeds 2^32 - 1 (40_frequency R152). -/
def saturates (f : Word) (c : Nat) : Bool := decide (Config.counterMax < f.toNat + c)

end Sys2Proof.Machine
end

