-- ==== Sys2Proof/Machine/Ops.lean ====
section
/-! DEFINITION. The named operations over data memory, the FREQ and CODE files, the free values, and the two ways a
command ends: completion and failure (00_scope R15; 60_exceptions R310, R320). -/

namespace Sys2Proof.Machine

/-- What a data-memory address that is not listed reads as (log 1). -/
def Memory.unlisted : Byte := 0

/-- MemRead(addr, 1) (00_scope R15). -/
def Memory.read (m : Memory) (a : Nat) : Byte :=
  match m with
  | [] => Memory.unlisted
  | c :: rest => if c.1 = a then c.2 else Memory.read rest a

/-- The memory in which `a` is not listed. -/
def Memory.erase (m : Memory) (a : Nat) : Memory := m.filter (fun c => c.1 != a)

/-- The memory in which `a` is listed with `v`, at its place in rising order. -/
def Memory.insert (m : Memory) (a : Nat) (v : Byte) : Memory :=
  match m with
  | [] => [(a, v)]
  | c :: rest =>
    if a < c.1 then (a, v) :: c :: rest
    else if a = c.1 then (a, v) :: rest
    else c :: Memory.insert rest a v

/-- MemWrite(addr, 1, v) (00_scope R15). -/
def Memory.write (m : Memory) (a : Nat) (v : Byte) : Memory :=
  if v = Memory.unlisted then Memory.erase m a else Memory.insert m a v

/-- MemWrite of each byte of `bs` at a, a + 1, … (00_scope R15). -/
def Memory.writeBytes (m : Memory) (a : Nat) (bs : List Byte) : Memory :=
  match bs with
  | [] => m
  | b :: rest => Memory.writeBytes (Memory.write m a b) (a + 1) rest

/-- [ MemRead(a + i, 1) for i in 0 .. n - 1 ] (00_scope R15). -/
def Memory.readBytes (m : Memory) (a n : Nat) : List Byte := (List.range n).map (fun i => Memory.read m (a + i))

/-- The canonical form: addresses of the address space, strictly rising, and no entry equal to what an unlisted address
reads as (20_memory R80, R81; log 1). -/
def Memory.wf (m : Memory) : Bool :=
  match m with
  | [] => true
  | [c] => decide (c.1 < Config.memSize) && c.2 != Memory.unlisted
  | c :: d :: rest =>
    decide (c.1 < Config.memSize) && c.2 != Memory.unlisted && decide (c.1 < d.1) && Memory.wf (d :: rest)

/-- The symbols 0 to 255 in ascending order (00_scope R8). -/
def symbols : List Byte := (List.range Config.alphabet).map (BitVec.ofNat 8)

/-- The entry of symbol `x`: FREQ[x], CODE[x] (00_scope R15). -/
def Table.get {α : Type} (t : Table α) (x : Byte) : α :=
  (t.entries.drop x.toNat).head (by
    intro h
    have := congrArg List.length h
    simp only [List.length_drop, t.size, List.length_nil] at this
    have := x.isLt
    omega)

/-- The file whose entry for symbol x is `f x`. -/
def Table.ofFn {α : Type} (f : Byte → α) : Table α :=
  ⟨symbols.map f, by simp [symbols, Config.alphabet]⟩

/-- Every symbol with its entry, in ascending order of symbol. -/
def Table.pairs {α : Type} (t : Table α) : List (Byte × α) := symbols.zip t.entries

/-- The file whose entry for symbol x is `f x` of the old entry. -/
def Table.mapPairs {α β : Type} (f : Byte → α → β) (t : Table α) : Table β :=
  ⟨t.pairs.map (fun e => f e.1 e.2), by simp [Table.pairs, symbols, t.size, Config.alphabet]⟩

/-- The file with the entry of symbol `x` replaced. -/
def Table.set {α : Type} (t : Table α) (x : Byte) (a : α) : Table α :=
  ⟨t.entries.set x.toNat a, by simp [t.size]⟩

/-- The code table with no code (10_state R52). -/
def emptyCode : Table Code := Table.fill []

/-- The coded symbols with their codes, in ascending order of symbol (30_encoding R127). -/
def codedEntries (t : Table Code) : List (Byte × Code) :=
  t.pairs.filter (fun e => !e.2.isEmpty)

/-- NSYM: how many symbols have a code (10_state R50). -/
def State.nsym (s : State) : Nat := (codedEntries s.code).length

/-- The number a bit sequence spells, first bit most significant (42_bit_packing R201; 10_state R54). -/
def bitsToNat (u : Code) : Nat := u.foldl (fun n b => 2 * n + b.toNat) 0

/-- BE32 (00_scope R15; 20_memory R82). -/
def be32 (b0 b1 b2 b3 : Byte) : Word := b0 ++ b1 ++ b2 ++ b3

/-- BE32bytes, for values below 2^32 (00_scope R15). -/
def be32Bytes (v : Nat) : List Byte :=
  [BitVec.ofNat 8 (v / 0x1000000), BitVec.ofNat 8 (v / 0x10000), BitVec.ofNat 8 (v / 0x100), BitVec.ofNat 8 v]

/-- Completion with error code `e`: BUSY falls, DONE rises, the code is posted and IRQ_STATUS bits are set; nothing else
changes (60_exceptions R320). -/
def State.complete (s : State) (e : ErrCode) : State :=
  { s with
    busy := false
    done := true
    errCode := e
    err := e.isError
    irqStatus := s.irqStatus ||| completionIrqBits e }

/-- `complete`: the command ends successfully (00_scope R15). -/
def completeOk (s : State) : Host.Outcome State Fault Refusal := .next (s.complete .ok)

/-- `fail e`: the command stops at once and completion runs with the code; the state is what its earlier steps wrote
(60_exceptions R310). The machine goes on. -/
def failWith (e : ErrCode) (s : State) : Host.Outcome State Fault Refusal := .next (s.complete e)

/-- Every byte of the latched destination region holds any value, drawn anew (20_memory R86; 70_reset R353; log 4). -/
def State.spoilDst (s : State) : State :=
  { s with
    mem := Memory.writeBytes s.mem s.latch.dstAddr.toNat
      ((List.range s.latch.dstCap.toNat).map (fun i => Config.freeByte s.draws (s.latch.dstAddr.toNat + i)))
    draws := s.draws + 1 }

/-- `fail e` of a command that writes its destination region: the region is left holding any value (20_memory R86). -/
def failDst (e : ErrCode) (s : State) : Host.Outcome State Fault Refusal := failWith e s.spoilDst

/-- A success writes exactly these bytes at destination offsets 0, 1, … and OUT_LEN counts them (20_memory R86;
10_state R47). -/
def State.deliver (s : State) (out : List Byte) : State :=
  { s with
    mem := Memory.writeBytes s.mem s.latch.dstAddr.toNat out
    outLen := BitVec.ofNat 32 out.length }

/-- PAD_COUNT and TABLE_LEN take a container's two header fields (10_state R48, R49). -/
def State.withHeader (s : State) (pad tableLen : Word) : State := { s with padCount := pad, tableLen := tableLen }

/-- CODE takes a whole table (10_state R52). -/
def State.withCode (s : State) (t : Table Code) : State := { s with code := t }

/-- FREQ takes a whole file, and SAT a value (10_state R40, R51). -/
def State.withFreq (s : State) (t : Table Word) (sat : Bool) : State := { s with freq := t, sat := sat }

/-- The host's read returned this (45_control R297, R300; log 5). -/
def State.observe (s : State) (o : Observation) : State := { s with observed := o :: s.observed }

/-- A read drew one free value (45_control R297; log 4). -/
def State.drawn (s : State) : State := { s with draws := s.draws + 1 }

end Sys2Proof.Machine
end

