-- ==== Sys2Proof/Machine/Operands.lean ====
section
/-! DEFINITION. Where a command's operands come from: acceptance and the latch (45_control R292), the two regions and
their checks (20_memory R87), and the register window's address map (30_encoding R100 to R104). -/

namespace Sys2Proof.Machine

/-- Acceptance of command word `v`: the latch takes OPCODE, whether RESERVED is non-zero, and the four parameters;
BUSY rises; DONE, ERR, ERR_CODE, OVR and the three result registers become 0 (45_control R292; 10_state R56). -/
def State.accept (s : State) (v : Word) : State :=
  { s with
    latch :=
      { opcode := opcodeField v
        rsvNz := reservedField v != 0
        srcAddr := s.srcAddr
        srcLen := s.srcLen
        dstAddr := s.dstAddr
        dstCap := s.dstCap }
    busy := true
    done := false
    err := false
    errCode := .ok
    ovr := false
    outLen := 0
    padCount := 0
    tableLen := 0 }

/-- A command word with the latched OPCODE, and with RESERVED zero or not as latched: all that dispatch looks at
(30_encoding R108, R109; log 12). -/
def Latch.word (l : Latch) : Word := (if l.rsvNz then (1 : BitVec 28) else 0) ++ l.opcode

/-- The command the ENGINE executes: the latched one, dispatched by the opcode map (10_state R31; 45_control R292). -/
def State.latchedInstr (s : State) : Instr := decodeWord s.latch.word

/-- A region is in range when base + length ≤ 2^32, computed exactly (20_memory R87). -/
def inRange (b n : Word) : Bool := decide (b.toNat + n.toNat ≤ Config.memSize)

/-- Two regions overlap when neither is empty and each begins before the other ends (20_memory R87). -/
def overlap (b1 n1 b2 n2 : Word) : Bool :=
  decide (0 < n1.toNat) && decide (0 < n2.toNat) && decide (b1.toNat < b2.toNat + n2.toNat) &&
    decide (b2.toNat < b1.toNat + n1.toNat)

/-- The region check of FREQ_ACCUM and PARSE_HEADER: the source's range (60_exceptions R312). -/
def Latch.sourceOk (l : Latch) : Bool := inRange l.srcAddr l.srcLen

/-- The region check of ENCODE, COMPRESS and DECOMPRESS: both ranges, and no overlap (60_exceptions R312). -/
def Latch.regionsOk (l : Latch) : Bool :=
  inRange l.srcAddr l.srcLen && inRange l.dstAddr l.dstCap && !overlap l.srcAddr l.srcLen l.dstAddr l.dstCap

/-- Whether address `a` lies in the latched source region (00_scope R18). -/
def Latch.inSource (l : Latch) (a : Nat) : Bool :=
  decide (l.srcAddr.toNat ≤ a) && decide (a < l.srcAddr.toNat + l.srcLen.toNat)

/-- Whether address `a` lies in the latched destination region (00_scope R18). -/
def Latch.inDest (l : Latch) (a : Nat) : Bool :=
  decide (l.dstAddr.toNat ≤ a) && decide (a < l.dstAddr.toNat + l.dstCap.toNat)

/-- The bytes of the latched source region (40_frequency R153; 43_encoder R222; 44_decoder R250). -/
def State.sourceBytes (s : State) : List Byte :=
  Memory.readBytes s.mem s.latch.srcAddr.toNat s.latch.srcLen.toNat

/-- What stands at an offset of the register window (30_encoding R100 to R104). -/
inductive Reg where
  | id
  | version
  | ctrl
  | cmd
  | status
  | irqEn
  | irqStatus
  | srcAddr
  | srcLen
  | dstAddr
  | dstCap
  | outLen
  | padCount
  | tableLen
  | nsym
  | freq (x : Byte)
  | codeLen (x : Byte)
  | codeBits (x : Byte) (k : Fin 8)
  | reserved
  deriving DecidableEq, Repr

/-- The map of the window, for offsets below 0x3000 that are multiples of 4 (30_encoding R100 to R104). -/
def regAt (off : Nat) : Reg :=
  if off < 0x40 then
    match off with
    | 0x00 => .id
    | 0x04 => .version
    | 0x08 => .ctrl
    | 0x0C => .cmd
    | 0x10 => .status
    | 0x14 => .irqEn
    | 0x18 => .irqStatus
    | 0x20 => .srcAddr
    | 0x24 => .srcLen
    | 0x28 => .dstAddr
    | 0x2C => .dstCap
    | 0x30 => .outLen
    | 0x34 => .padCount
    | 0x38 => .tableLen
    | 0x3C => .nsym
    | _ => .reserved
  else if off < 0x400 then .reserved
  else if off < 0x800 then .freq (BitVec.ofNat 8 ((off - 0x400) / 4))
  else if off < 0xC00 then .codeLen (BitVec.ofNat 8 ((off - 0x800) / 4))
  else if off < 0x1000 then .reserved
  else .codeBits (BitVec.ofNat 8 ((off - 0x1000) / 32)) (Fin.ofNat 8 ((off - 0x1000) / 4))

/-- The offset of a register (30_encoding R101, R103, R104); a reserved one has none of its own. -/
def Reg.offset : Reg → Option Nat
  | .id => some 0x00
  | .version => some 0x04
  | .ctrl => some 0x08
  | .cmd => some 0x0C
  | .status => some 0x10
  | .irqEn => some 0x14
  | .irqStatus => some 0x18
  | .srcAddr => some 0x20
  | .srcLen => some 0x24
  | .dstAddr => some 0x28
  | .dstCap => some 0x2C
  | .outLen => some 0x30
  | .padCount => some 0x34
  | .tableLen => some 0x38
  | .nsym => some 0x3C
  | .freq x => some (0x400 + 4 * x.toNat)
  | .codeLen x => some (0x800 + 4 * x.toNat)
  | .codeBits x k => some (0x1000 + 32 * x.toNat + 4 * k.val)
  | .reserved => none

/-- The offset in the window of a platform address, if the address lies in the window (30_encoding R100; log 9). -/
def windowOffset (addr : Nat) : Option Nat :=
  if Config.base ≤ addr ∧ addr < Config.base + Config.regWindow then some (addr - Config.base) else none

end Sys2Proof.Machine
end

