-- ==== Sys2Proof/Machine/Control.lean ====
section
/-! DEFINITION. The commands with no functional unit: NOP and the illegal command (45_control R293, R294). -/

namespace Sys2Proof.Machine

/-- NOP does nothing and completes (45_control R293). -/
def execNop (s : State) : Host.Outcome State Fault Refusal := completeOk s

/-- The illegal command fails with ILLEGAL_CMD, whatever its fields (45_control R294). -/
def execIllegal (_opcode : BitVec 4) (_reserved : BitVec 28) (s : State) : Host.Outcome State Fault Refusal :=
  failWith .illegalCmd s

end Sys2Proof.Machine
end

