-- ==== Sys2Proof/Machine/Packing.lean ====
section
/-! DEFINITION. The bit-level packer and unpacker (42_bit_packing). -/

namespace Sys2Proof.Machine

/-- The byte eight bits form, the first the most significant (42_bit_packing R200, R201). -/
def byteOfBits (u : Code) : Byte := BitVec.ofNat 8 (bitsToNat u)

/-- The eight bits of a byte, the most significant first (42_bit_packing R200, R204). -/
def bitsOfByte (b : Byte) : Code := (List.range 8).map (fun i => b.getLsbD (7 - i))

/-- The packer's state: the completed bytes and the partial byte (42_bit_packing R201). -/
structure BitWriter where
  bytes : List Byte
  acc : Code
  deriving DecidableEq, Repr

/-- One bit appended; the eighth emits a byte (42_bit_packing R201). -/
def writeBit (p : BitWriter) (x : Bool) : BitWriter :=
  if (p.acc ++ [x]).length = 8 then ⟨p.bytes ++ [byteOfBits (p.acc ++ [x])], []⟩ else ⟨p.bytes, p.acc ++ [x]⟩

/-- write_bits(u) (42_bit_packing R201). -/
def writeBits (p : BitWriter) (u : Code) : BitWriter := u.foldl writeBit p

/-- finish: the last partial byte is padded with zero bits, which are counted (42_bit_packing R202). -/
def finishBits (p : BitWriter) : List Byte × Nat :=
  if p.acc.length = 0 then (p.bytes, 0)
  else ((writeBits p (List.replicate (8 - p.acc.length) false)).bytes, 8 - p.acc.length)

/-- Pack(u) = (P, pad) (42_bit_packing R203). -/
def pack (u : Code) : List Byte × Nat := finishBits (writeBits ⟨[], []⟩ u)

/-- Unpack(P): every bit, trailing padding included (42_bit_packing R204). -/
def unpack (p : List Byte) : Code := p.flatMap bitsOfByte

/-- Retain(P, pad), for pad ≤ 8 × len(P): the last pad bits are dropped, whatever they are (42_bit_packing R205,
R206). -/
def retain (p : List Byte) (pad : Nat) : Code := (unpack p).take (8 * p.length - pad)

end Sys2Proof.Machine
end

