-- ==== Sys2Proof/Machine/Tree.lean ====
section
/-! DEFINITION. The tree builder, its merge comparator, code assignment, and BUILD_CODES (41_tree_and_codes). -/

namespace Sys2Proof.Machine

/-- The shape of a Huffman tree (41_tree_and_codes R170). -/
inductive Tree where
  | leaf (x : Byte)
  | node (left right : Tree)
  deriving DecidableEq, Repr

/-- An entry of the working list: a node with its exact weight (41_tree_and_codes R170; 00_scope R11). -/
structure Entry where
  weight : Nat
  tree : Tree
  deriving DecidableEq, Repr

/-- Leaf x comes before leaf y: smaller weight, or equal weight and smaller symbol (41_tree_and_codes R171). -/
def leafBefore (x y : Nat × Byte) : Bool :=
  decide (x.1 < y.1) || (x.1 == y.1 && decide (x.2.toNat < y.2.toNat))

/-- A leaf put at its place in an ordered list of leaves. -/
def insertLeaf (x : Nat × Byte) (l : List (Nat × Byte)) : List (Nat × Byte) :=
  match l with
  | [] => [x]
  | y :: rest => if leafBefore x y then x :: y :: rest else y :: insertLeaf x rest

/-- The present symbols with their weights, ascending by (weight, symbol) (41_tree_and_codes R171). -/
def presentLeaves (freq : Table Word) : List (Nat × Byte) :=
  ((freq.pairs.filter (fun e => e.2 != 0)).map (fun e => (e.2.toNat, e.1))).foldr insertLeaf []

/-- The initial working list (41_tree_and_codes R171). -/
def initialList (freq : Table Word) : List Entry := (presentLeaves freq).map (fun p => ⟨p.1, .leaf p.2⟩)

/-- The merge comparator: InsertPos(L, w) counts the entries of strictly smaller weight (41_tree_and_codes R172). -/
def insertPos (l : List Entry) (w : Nat) : Nat := l.countP (fun e => decide (e.weight < w))

/-- The list with the new node at its position (41_tree_and_codes R173). -/
def insertEntry (l : List Entry) (n : Entry) : List Entry :=
  l.take (insertPos l n.weight) ++ n :: l.drop (insertPos l n.weight)

/-- One merge step: the two lowest, lowest first, become the children of a new node (41_tree_and_codes R173). -/
def mergeStep (l : List Entry) : List Entry :=
  match l with
  | a :: b :: rest => insertEntry rest ⟨a.weight + b.weight, .node a.tree b.tree⟩
  | short => short

/-- `n` merge steps; a list of n + 1 entries is then down to its root (41_tree_and_codes R174). -/
def mergeSteps (n : Nat) (l : List Entry) : List Entry :=
  match n with
  | 0 => l
  | k + 1 => mergeSteps k (mergeStep l)

/-- BuildTree(FREQ): no tree, a single leaf, or the root after the merges (41_tree_and_codes R174 to R176). -/
def buildTree (freq : Table Word) : Option Tree :=
  ((mergeSteps ((initialList freq).length - 1) (initialList freq)).head?).map Entry.tree

/-- Each leaf's symbol with the path from the root: 0 to the left, 1 to the right (41_tree_and_codes R177). -/
def leafPaths (t : Tree) (path : Code) : List (Byte × Code) :=
  match t with
  | .leaf x => [(x, path)]
  | .node l r => leafPaths l (path ++ [false]) ++ leafPaths r (path ++ [true])

/-- The table that gives each listed symbol its code and every other symbol none. -/
def tableOf (l : List (Byte × Code)) : Table Code := Table.ofFn (fun x => (l.lookup x).getD [])

/-- AssignCodes(root): nothing without a tree, the one-bit code 0 for a lone leaf, else the paths (41_tree_and_codes
R177, R178). -/
def assignCodes (root : Option Tree) : Table Code :=
  match root with
  | none => emptyCode
  | some (.leaf x) => tableOf [(x, [false])]
  | some (.node l r) => tableOf (leafPaths (.node l r) [])

/-- The code table BUILD_CODES makes of FREQ (41_tree_and_codes R180). -/
def builtCodes (freq : Table Word) : Table Code := assignCodes (buildTree freq)

/-- BUILD_CODES (41_tree_and_codes R180). -/
def execBuildCodes (s : State) : Host.Outcome State Fault Refusal :=
  completeOk (s.withCode (builtCodes s.freq))

end Sys2Proof.Machine
end

