-- ==== Sys2Proof/Machine/Decoder.lean ====
section
/-! DEFINITION. The container header parser, the table parser, the bit decoder, and PARSE_HEADER and DECOMPRESS
(44_decoder). -/

namespace Sys2Proof.Machine

/-- The bit a digit byte stands for, if it is one (30_encoding R126; 44_decoder R254). -/
def digitBit (d : Byte) : Option Bool :=
  if d = 0x30 then some false else if d = 0x31 then some true else none

/-- The code a row of digit bytes spells; none when a byte is no digit (44_decoder R254). -/
def digitsCode (ds : List Byte) : Option Code := ds.mapM digitBit

/-- `x` is greater than the symbol before it, if any (44_decoder R254). -/
def ascends (prev : Option Byte) (x : Byte) : Bool :=
  match prev with
  | none => true
  | some p => decide (p.toNat < x.toNat)

/-- The loop of ParseTable over the rest of the table; `fuel` bounds the entries left, each of at least 3 bytes
(44_decoder R254). -/
def parseEntries (fuel : Nat) (prev : Option Byte) (t : List Byte) : Option (List (Byte × Code)) :=
  match fuel, t with
  | _, [] => some []
  | 0, _ => none
  | _, [_] => none
  | k + 1, x :: len :: rest =>
    if ascends prev x && len != 0 && decide (len.toNat ≤ rest.length) then
      match digitsCode (rest.take len.toNat), parseEntries k (some x) (rest.drop len.toNat) with
      | some c, some es => some ((x, c) :: es)
      | _, _ => none
    else none

/-- The prefix relation on bit sequences (00_scope R13). -/
def isPrefix (u v : Code) : Bool := u.isPrefixOf v

/-- PrefixCheck on the coded entries: for distinct symbols neither code is a prefix of the other (44_decoder R256). -/
def entriesPrefixFree (es : List (Byte × Code)) : Bool :=
  match es with
  | [] => true
  | e :: rest => rest.all (fun f => !isPrefix e.2 f.2 && !isPrefix f.2 e.2) && entriesPrefixFree rest

/-- ParseTable(T): the table, or none for INVALID_CODE_TABLE (44_decoder R254 to R256). -/
def parseTable (t : List Byte) : Option (Table Code) :=
  match parseEntries t.length none t with
  | none => none
  | some es => if entriesPrefixFree es then some (tableOf es) else none

/-- The two header fields, big-endian, when the container has its 8 header bytes (44_decoder R251(a), R252). -/
def headerFields (c : List Byte) : Option (Word × Word) :=
  match c with
  | p0 :: p1 :: p2 :: p3 :: t0 :: t1 :: t2 :: t3 :: _ => some (be32 p0 p1 p2 p3, be32 t0 t1 t2 t3)
  | _ => none

/-- What the parser yields of a valid container. -/
structure Parsed where
  pad : Nat
  table : Table Code
  payload : List Byte
  deriving DecidableEq, Repr

/-- Every check of the parser, in its order, on a container's bytes (44_decoder R251, R253 to R256, R258). -/
def parseContainer (c : List Byte) : Except ErrCode Parsed :=
  match headerFields c with
  | none => .error .malformedHeader
  | some (pad, tl) =>
    if c.length < Config.headerLen + tl.toNat then .error .malformedHeader
    else if Config.maxPad < pad.toNat then .error .invalidPadding
    else
      match parseTable ((c.drop Config.headerLen).take tl.toNat) with
      | none => .error .invalidCodeTable
      | some tab =>
        if (codedEntries tab).isEmpty && !(c.drop (Config.headerLen + tl.toNat)).isEmpty then
          .error .invalidCodeTable
        else if 8 * (c.drop (Config.headerLen + tl.toNat)).length < pad.toNat then .error .invalidPadding
        else .ok ⟨pad.toNat, tab, c.drop (Config.headerLen + tl.toNat)⟩

/-- PAD_COUNT and TABLE_LEN as soon as the header has been read, whatever check fails later; CODE is cleared before
(44_decoder R252, R257). -/
def State.headerRead (s : State) (c : List Byte) : State :=
  match headerFields c with
  | none => s.withCode emptyCode
  | some (pad, tl) => (s.withCode emptyCode).withHeader pad tl

/-- PARSE_HEADER (44_decoder R261). -/
def execParseHeader (s : State) : Host.Outcome State Fault Refusal :=
  if s.latch.sourceOk then
    match parseContainer s.sourceBytes with
    | .error e => failWith e (s.headerRead s.sourceBytes)
    | .ok p => completeOk ((s.headerRead s.sourceBytes).withCode p.table)
  else failWith .region s

/-- The greedy decode of the retained bits under a prefix-free code, `cur` being the partial code; none for
UNRESOLVABLE_BITS (44_decoder R259, R260). -/
def decodeBits (es : List (Byte × Code)) (cur : Code) (v : Code) : Option (List Byte) :=
  match v with
  | [] => if cur.isEmpty then some [] else none
  | x :: rest =>
    match es.find? (fun e => e.2 == cur ++ [x]) with
    | some e => (decodeBits es [] rest).map (e.1 :: ·)
    | none => if es.any (fun e => isPrefix (cur ++ [x]) e.2) then decodeBits es (cur ++ [x]) rest else none

/-- DECOMPRESS, its errors in the order of 44_decoder R271 (44_decoder R270). -/
def execDecompress (s : State) : Host.Outcome State Fault Refusal :=
  if s.latch.regionsOk then
    match parseContainer s.sourceBytes with
    | .error e => failDst e (s.headerRead s.sourceBytes)
    | .ok p =>
      match decodeBits (codedEntries p.table) [] (retain p.payload p.pad) with
      | none => failDst .unresolvableBits ((s.headerRead s.sourceBytes).withCode p.table)
      | some out =>
        if out.length ≤ s.latch.dstCap.toNat then
          completeOk (((s.headerRead s.sourceBytes).withCode p.table).deliver out)
        else failDst .dstOverflow ((s.headerRead s.sourceBytes).withCode p.table)
  else failWith .region s

end Sys2Proof.Machine
end

