-- ==== Sys2Proof/Machine/Frequency.lean ====
section
/-! DEFINITION. The frequency accumulator: FREQ_CLEAR and FREQ_ACCUM (40_frequency). -/

namespace Sys2Proof.Machine

/-- FREQ[x] <- SatAdd(FREQ[x], Count(b)[x]) for every x (40_frequency R150, R153). -/
def accumulated (freq : Table Word) (b : List Byte) : Table Word :=
  freq.mapPairs (fun x f => satAdd f (b.count x))

/-- Whether some counter's exact sum exceeds 2^32 - 1 (40_frequency R153; 10_state R40). -/
def someSaturates (freq : Table Word) (b : List Byte) : Bool :=
  freq.pairs.any (fun e => saturates e.2 (b.count e.1))

/-- FREQ_CLEAR (40_frequency R151). -/
def execFreqClear (s : State) : Host.Outcome State Fault Refusal :=
  completeOk (s.withFreq (Table.fill 0) false)

/-- FREQ_ACCUM (40_frequency R153): SAT is set by a saturating counter and never cleared. -/
def execFreqAccum (s : State) : Host.Outcome State Fault Refusal :=
  if s.latch.sourceOk then
    completeOk
      (s.withFreq (accumulated s.freq s.sourceBytes) (s.sat || someSaturates s.freq s.sourceBytes))
  else failWith .region s

end Sys2Proof.Machine
end

