-- ==== Sys2Proof/Machine/Encoder.lean ====
section
/-! DEFINITION. The symbol-to-code mapper, the table serializer, the container, and ENCODE and COMPRESS (43_encoder;
41_tree_and_codes R181). -/

namespace Sys2Proof.Machine

/-- Lookup(x): the code of x, or none when it is empty (43_encoder R220). -/
def lookupCode (t : Table Code) (x : Byte) : Option Code := if (t.get x).isEmpty then none else some (t.get x)

/-- Every byte of `b` has a code (43_encoder R221, R223). -/
def allCoded (t : Table Code) (b : List Byte) : Bool := b.all (fun x => (lookupCode t x).isSome)

/-- EncodeBits(b): the codes of the bytes in input order (43_encoder R221), defined where every byte has a code. -/
def encodeBits (t : Table Code) (b : List Byte) : Code := b.flatMap (fun x => t.get x)

/-- The digit byte of a code bit: 0x30 for 0, 0x31 for 1 (30_encoding R126). -/
def digitByte (x : Bool) : Byte := if x then 0x31 else 0x30

/-- One table entry: SYM, L, DIGITS (30_encoding R126; 41_tree_and_codes R181). -/
def entryBytes (e : Byte × Code) : List Byte := e.1 :: BitVec.ofNat 8 e.2.length :: e.2.map digitByte

/-- SerializeTable(CODE): the coded symbols' entries in ascending order of symbol (41_tree_and_codes R181). -/
def serializeTable (t : Table Code) : List Byte := (codedEntries t).flatMap entryBytes

/-- MakeContainer(pad, T, P) (43_encoder R226; 30_encoding R120). -/
def makeContainer (pad : Nat) (t p : List Byte) : List Byte := be32Bytes pad ++ be32Bytes t.length ++ t ++ p

/-- The container ENCODE makes of the bytes `b` under a code table (43_encoder R222). -/
def containerOf (t : Table Code) (b : List Byte) : List Byte :=
  makeContainer (pack (encodeBits t b)).2 (serializeTable t) (pack (encodeBits t b)).1

/-- The last steps of ENCODE and COMPRESS: the container must fit, is written, and the result registers tell its size,
padding and table length (43_encoder R222, R224, R232). -/
def encodeInto (b : List Byte) (s : State) : Host.Outcome State Fault Refusal :=
  if (containerOf s.code b).length ≤ s.latch.dstCap.toNat then
    completeOk
      ((s.deliver (containerOf s.code b)).withHeader (BitVec.ofNat 32 (pack (encodeBits s.code b)).2)
        (BitVec.ofNat 32 (serializeTable s.code).length))
  else failDst .dstOverflow s

/-- ENCODE, its errors in the order REGION, NO_CODE, DST_OVERFLOW (43_encoder R222, R223). -/
def execEncode (s : State) : Host.Outcome State Fault Refusal :=
  if s.latch.regionsOk then
    if allCoded s.code s.sourceBytes then encodeInto s.sourceBytes s else failDst .noCode s
  else failWith .region s

/-- COMPRESS up to its container: FREQ counts the source alone, SAT is cleared, CODE is rebuilt (43_encoder R232). -/
def State.recoded (s : State) : State :=
  (s.withFreq (accumulated (Table.fill 0) s.sourceBytes) false).withCode
    (builtCodes (accumulated (Table.fill 0) s.sourceBytes))

/-- COMPRESS, its errors in the order REGION, DST_OVERFLOW (43_encoder R232, R233). -/
def execCompress (s : State) : Host.Outcome State Fault Refusal :=
  if s.latch.regionsOk then encodeInto s.sourceBytes s.recoded else failWith .region s

end Sys2Proof.Machine
end

