-- ==== Sys2Proof/Machine/Dispatch.lean ====
section
/-! DEFINITION. The opcode map as a dispatch: one arm per command (30_encoding R108, R109). -/

namespace Sys2Proof.Machine

/-- The ENGINE's one atomic step for a latched command, completion included (00_scope R7; 45_control R292). -/
def exec (i : Instr) (s : State) : Host.Outcome State Fault Refusal :=
  match i with
  | .nop => Sys2Proof.Machine.execNop s
  | .freqClear => Sys2Proof.Machine.execFreqClear s
  | .freqAccum => Sys2Proof.Machine.execFreqAccum s
  | .buildCodes => Sys2Proof.Machine.execBuildCodes s
  | .encode => Sys2Proof.Machine.execEncode s
  | .compress => Sys2Proof.Machine.execCompress s
  | .parseHeader => Sys2Proof.Machine.execParseHeader s
  | .decompress => Sys2Proof.Machine.execDecompress s
  | .illegal opcode reserved => Sys2Proof.Machine.execIllegal opcode reserved s

end Sys2Proof.Machine
end

