-- ==== Sys2Proof/Machine/HostPort.lean ====
section
/-! DEFINITION. What the host can do: register writes and reads, soft and hardware reset, data-memory accesses
(45_control R290 to R300; 70_reset R350 to R353). -/

namespace Sys2Proof.Machine

/-- Word k of the packed view of a code: bit 31 - j is code bit 32k + j, unused bits 0 (10_state R54). -/
def codeBitsWord (c : Code) (k : Nat) : Word :=
  BitVec.ofNat 32 (bitsToNat ((List.range 32).map (fun j => c.getD (32 * k + j) false)))

/-- The defined value of a register (10_state R32 to R54; 45_control R297). -/
def State.regValue (s : State) (r : Reg) : Word :=
  match r with
  | .id => Config.idValue
  | .version => Config.versionValue
  | .ctrl => 0
  | .cmd => s.latch.opcode.setWidth 32
  | .status => s.statusWord
  | .irqEn => s.irqEn.setWidth 32
  | .irqStatus => s.irqStatus.setWidth 32
  | .srcAddr => s.srcAddr
  | .srcLen => s.srcLen
  | .dstAddr => s.dstAddr
  | .dstCap => s.dstCap
  | .outLen => s.outLen
  | .padCount => s.padCount
  | .tableLen => s.tableLen
  | .nsym => BitVec.ofNat 32 s.nsym
  | .freq x => s.freq.get x
  | .codeLen x => BitVec.ofNat 32 (s.code.get x).length
  | .codeBits x k => codeBitsWord (s.code.get x) k.val
  | .reserved => 0

/-- The registers whose reads return any value while the ENGINE is busy (45_control R297; 70_reset R362). -/
def Reg.anyWhileBusy : Reg → Bool
  | .outLen => true
  | .padCount => true
  | .tableLen => true
  | .nsym => true
  | .freq _ => true
  | .codeLen _ => true
  | .codeBits _ _ => true
  | .id => false
  | .version => false
  | .ctrl => false
  | .cmd => false
  | .status => false
  | .irqEn => false
  | .irqStatus => false
  | .srcAddr => false
  | .srcLen => false
  | .dstAddr => false
  | .dstCap => false
  | .reserved => false

/-- Whether the latched command writes its destination region, and its region check passes: the aborts that leave the
region holding any value (70_reset R353). -/
def State.abortSpoils (s : State) : Bool :=
  s.busy && s.latch.regionsOk &&
    (s.latchedInstr == .encode || s.latchedInstr == .compress || s.latchedInstr == .decompress)

/-- Data memory and the count of draws after an abort, if there is one (70_reset R353). -/
def State.aborted (s : State) : State := if s.abortSpoils then s.spoilDst else s

/-- A hardware or a soft reset: the 10_state R70 state; MEM changes only by an abort, the marks and the host's side not
at all (70_reset R350 to R353). -/
def State.resetBlock (s : State) : State :=
  { State.resetWith s.aborted.mem with
    race := s.race
    refused := s.refused
    draws := s.aborted.draws
    events := s.events
    observed := s.observed }

/-- IRQ_STATUS after a host write of `v` (10_state R42). -/
def State.clearIrq (s : State) (v : Word) : State := { s with irqStatus := irqCleared s.irqStatus v }

/-- A write to CMD: ignored but for OVR while busy, accepted while idle (45_control R291, R292). -/
def State.writeCmd (s : State) (v : Word) : State := if s.busy then { s with ovr := true } else s.accept v

/-- A host write of `v` to FREQ[x]: ignored while busy, SAT and OVR untouched (45_control R296). -/
def State.writeFreq (s : State) (x : Byte) (v : Word) : State :=
  if s.busy then s else { s with freq := s.freq.set x v }

/-- A host register write (45_control R295). -/
def State.writeReg (s : State) (r : Reg) (v : Word) : State :=
  match r with
  | .id => s
  | .version => s
  | .ctrl => if v.getLsbD 0 then s.resetBlock else s
  | .cmd => s.writeCmd v
  | .status => s
  | .irqEn => { s with irqEn := v.setWidth 2 }
  | .irqStatus => s.clearIrq v
  | .srcAddr => { s with srcAddr := v }
  | .srcLen => { s with srcLen := v }
  | .dstAddr => { s with dstAddr := v }
  | .dstCap => { s with dstCap := v }
  | .outLen => s
  | .padCount => s
  | .tableLen => s
  | .nsym => s
  | .freq x => s.writeFreq x v
  | .codeLen _ => s
  | .codeBits _ _ => s
  | .reserved => s

/-- A host read of offset `off` that may return any value: a fresh free value. No register changes (45_control R297;
log 4). -/
def State.readAny (s : State) (off : Nat) : State := (s.observe (.reg off (some (Config.freeWord s.draws)))).drawn

/-- A host register read of offset `off`: the defined value, or any value where the read may return any (45_control
R297). No register changes. -/
def State.readReg (s : State) (off : Nat) : State :=
  if s.busy && (regAt off).anyWhileBusy then s.readAny off
  else s.observe (.reg off (some (s.regValue (regAt off))))

/-- Whether a register access is one the spec defines: 32 bits wide at a multiple of 4 (20_memory R89; 45_control
R290). -/
def accessDefined (width off : Nat) : Bool := width == 32 && off % 4 == 0

/-- A host byte write to MEM, one byte of MEMW; into a latched region while busy it sets RACE (45_control R300;
20_memory R93; log 8). -/
def State.hostMemWrite (s : State) (a : Word) (b : Byte) : State :=
  { s with
    mem := Memory.write s.mem a.toNat b
    race := s.race || (s.busy && (s.latch.inSource a.toNat || s.latch.inDest a.toNat)) }

/-- A host byte read of MEM, one byte of MEMR; a destination byte reads as any value while busy (45_control R300;
20_memory R93; log 8). -/
def State.hostMemRead (s : State) (a : Word) : State :=
  if s.busy && s.latch.inDest a.toNat then (s.observe (.mem a (Config.freeByte s.draws a.toNat))).drawn
  else s.observe (.mem a (Memory.read s.mem a.toNat))

/-- A host register write at an offset from BASE: the effect of a defined access, or the mark REFUSED and nothing else
(45_control R290); outside the window it is the platform's and does nothing here (log 6). -/
def State.hostWr (s : State) (width off : Nat) (v : Word) : State :=
  if Config.regWindow ≤ off then s
  else if accessDefined width off then s.writeReg (regAt off) v
  else { s with refused := true }

/-- A host register read, as `State.hostWr`. A refused read returns no value (45_control R290); outside the window the
platform answers, with any value (log 6). -/
def State.hostRd (s : State) (width off : Nat) : State :=
  if Config.regWindow ≤ off then s.readAny off
  else if accessDefined width off then s.readReg off
  else { s with refused := true }.observe (.reg off none)

/-- A host write of `v` at a platform address: an operation of the block when the address lies in its window, and none
otherwise (30_encoding R100, R110; 45_control R290; log 9). -/
def writeAt (width addr : Nat) (v : Word) : List Event :=
  match windowOffset addr with
  | some off => [.host (.wr width off v)]
  | none => []

/-- A host read at a platform address, as `writeAt` (30_encoding R100, R110; log 9). -/
def readAt (width addr : Nat) : List Event :=
  match windowOffset addr with
  | some off => [.host (.rd width off)]
  | none => []

/-- `WR <reg>, <value>` (30_encoding R110); no line names a reserved offset. -/
def writeLine (r : Reg) (v : Word) : List Event :=
  match r.offset with
  | some off => [.host (.wr 32 off v)]
  | none => []

/-- `RD <reg>` (30_encoding R110). -/
def readLine (r : Reg) : List Event :=
  match r.offset with
  | some off => [.host (.rd 32 off)]
  | none => []

/-- `MEMW <addr>, <b0> <b1> ...` (30_encoding R110), as far as its addresses exist (20_memory R80; log 7). -/
def memwLine (addr : Nat) (bs : List Byte) : List Event :=
  match bs with
  | [] => []
  | b :: rest =>
    if addr < Config.memSize then .host (.memw (BitVec.ofNat 32 addr) b) :: memwLine (addr + 1) rest else []

/-- `MEMR <addr>, <n>` (30_encoding R110), as far as its addresses exist (20_memory R80; log 7). -/
def memrLine (addr n : Nat) : List Event :=
  (List.range (min n (Config.memSize - addr))).map (fun i => .host (.memr (BitVec.ofNat 32 (addr + i))))

/-- `CMD <mnemonic>` (30_encoding R110). -/
def cmdLine (i : Instr) : List Event := writeLine .cmd (encode i)

/-- `RUN <mnemonic>` = `CMD <mnemonic>` then `WAIT` (30_encoding R111). -/
def runLine (i : Instr) : List Event := cmdLine i ++ [.host .wait]

/-- `SETREGS <sa>, <sl>, <da>, <dc>` (30_encoding R111). -/
def setRegsLine (sa sl da dc : Word) : List Event :=
  writeLine .srcAddr sa ++ writeLine .srcLen sl ++ writeLine .dstAddr da ++ writeLine .dstCap dc

/-- `ACK` = `WR IRQ_STATUS, 0x3` (30_encoding R111; 60_exceptions R321). -/
def ackLine : List Event := writeLine .irqStatus 3

end Sys2Proof.Machine
end

