-- ==== Sys2Proof/Machine/Turn.lean ====
section
/-! DEFINITION. One turn of the machine: the ENGINE, the host or the reset input moves, as the pending events say (00_scope
R6, R7; 60_exceptions R316; 70_reset R360, R366, R367). -/

namespace Sys2Proof.Machine

/-- The ENGINE's turn: its one enabled step while busy, nothing while idle (10_state R31; 45_control R292). -/
def engineTurn (s : State) : Host.Outcome State Fault Refusal :=
  if s.busy then exec s.latchedInstr s else .next s

/-- The state with its first event taken off. -/
def State.rest (s : State) (es : List Event) : State := { s with events := es }

/-- The host's turn, `es` being what is pending after it. WAIT is enabled only while BUSY = 0; until then the ENGINE
moves and the host goes on waiting (70_reset R360; log 3). -/
def hostTurn (op : HostOp) (es : List Event) (s : State) : Host.Outcome State Fault Refusal :=
  match op with
  | .wr width off v => .next ((s.rest es).hostWr width off v)
  | .rd width off => .next ((s.rest es).hostRd width off)
  | .memw a b => .next ((s.rest es).hostMemWrite a b)
  | .memr a => .next ((s.rest es).hostMemRead a)
  | .wait => if s.busy then engineTurn s else .next (s.rest es)

/-- One turn. With nothing pending the ENGINE moves, so that an accepted command completes (70_reset R367). A write to
IRQ_STATUS at the instant of completion clears first, and the bits completion sets stay 1 (10_state R42; log 10). -/
def turn (s : State) : Host.Outcome State Fault Refusal :=
  match s.events with
  | [] => engineTurn s
  | .engine :: es => engineTurn (s.rest es)
  | .host op :: es => hostTurn op es s
  | .engineMeetsIrqWrite v :: es => engineTurn ((s.rest es).clearIrq v)
  | .rst :: es => .next (s.rest es).resetBlock

/-- A write of `w` to CMD has just been accepted and no host operation is pending, so that the next turn is the
ENGINE's step for `w` (45_control R292; log 3). -/
def State.fetched (s : State) (w : Word) : State := (s.rest []).accept w

end Sys2Proof.Machine
end

