-- ==== Sys2Proof/Machine/Step.lean ====
section
/-! DEFINITION. The step function, and a command placed where the step takes its next one. -/

namespace Sys2Proof.Machine

/-- One step of the machine (00_scope R7). -/
def step (s : State) : Host.Outcome State Fault Refusal := turn s

/-- The state in which the command word `w`, of which the table gives `nbits` bits, has been accepted and is run by the
very next step (log 3). HUFFCORE fetches nothing: the host's CMD write stands in place of a fetch (10_state R31). -/
def State.withFetchWord (s : State) (nbits w : Nat) : State := s.fetched (BitVec.ofNat 32 (w % 2 ^ nbits))

end Sys2Proof.Machine
end

