-- ==== Sys2Proof/Safety.lean ====
section
/-! DEFINITION. What counts as a safe run, the machine's invariant, and the few words the statements use. -/

namespace Sys2Proof.Machine

/-- The premise the spec puts on a claim about a run: neither mark is set (10_state R59). -/
def State.Unmarked (s : State) : Prop := s.race = false ∧ s.refused = false

/-- For distinct coded symbols neither code is a prefix of the other (00_scope R13; 10_state R55). -/
def PrefixFree (t : Table Code) : Prop :=
  ∀ x y, x ≠ y → t.get x ≠ [] → t.get y ≠ [] → ¬ (t.get x <+: t.get y)

/-- A code table as CODE always holds it: prefix-free, no code longer than 255 bits (10_state R55). -/
def CodeOk (t : Table Code) : Prop := PrefixFree t ∧ ∀ x, (t.get x).length ≤ 255

/-- What every reachable state has, and every step keeps. -/
structure State.Inv (s : State) : Prop where
  /-- Memory is in canonical form (log 1). -/
  mem : Memory.wf s.mem = true
  /-- CODE holds a prefix-free code of 1 to 255 bits a symbol (10_state R55). -/
  code : CodeOk s.code
  /-- "ERR = 1 exactly when ERR_CODE ≠ 0" (10_state R38). -/
  err : s.err = true ↔ s.errCode ≠ .ok
  /-- While busy, DONE, ERR and the result registers are as acceptance left them (10_state R37, R38, R47). -/
  busy : s.busy = true → s.done = false ∧ s.err = false ∧ s.outLen = 0 ∧ s.padCount = 0 ∧ s.tableLen = 0
  /-- "After any error it is 0" (10_state R47). -/
  outLen : s.err = true → s.outLen = 0
  /-- "DONE = 0 with BUSY = 0 happens only after reset, before the first command is accepted" (10_state R37): then
  everything only a command can change is as reset left it. -/
  fresh : s.busy = false → s.done = false →
    s.latch = State.reset.latch ∧ s.irqStatus = 0 ∧ s.ovr = false ∧ s.sat = false ∧ s.code = emptyCode ∧
      s.outLen = 0 ∧ s.padCount = 0 ∧ s.tableLen = 0

/-- The latched source region is in range, computed exactly (20_memory R87). -/
def Latch.SourceInRange (l : Latch) : Prop := l.srcAddr.toNat + l.srcLen.toNat ≤ 2 ^ 32

/-- The latched destination region is in range, computed exactly (20_memory R87). -/
def Latch.DestInRange (l : Latch) : Prop := l.dstAddr.toNat + l.dstCap.toNat ≤ 2 ^ 32

/-- The latched regions overlap (20_memory R87). -/
def Latch.RegionsOverlap (l : Latch) : Prop :=
  0 < l.srcLen.toNat ∧ 0 < l.dstCap.toNat ∧ l.srcAddr.toNat < l.dstAddr.toNat + l.dstCap.toNat ∧
    l.dstAddr.toNat < l.srcAddr.toNat + l.srcLen.toNat

/-- The region check of ENCODE, COMPRESS and DECOMPRESS passes (60_exceptions R312). -/
def Latch.RegionsLegal (l : Latch) : Prop := l.SourceInRange ∧ l.DestInRange ∧ ¬ l.RegionsOverlap

/-- Address `a` lies outside the latched destination region. -/
def Latch.OutsideDest (l : Latch) (a : Nat) : Prop :=
  ¬ (l.dstAddr.toNat ≤ a ∧ a < l.dstAddr.toNat + l.dstCap.toNat)

/-- Byte i of the latched source region. -/
def State.sourceByte (s : State) (i : Nat) : Byte := Memory.read s.mem (s.latch.srcAddr.toNat + i)

/-- Count(b)[x] of the latched source region: how many positions hold x (40_frequency R150). -/
def State.occurrences (s : State) (x : Byte) : Nat :=
  ((List.range s.latch.srcLen.toNat).filter (fun i => s.sourceByte i == x)).length

/-- How many symbols are present in a frequency file (10_state R51). -/
def presentCount (f : Table Word) : Nat := (f.pairs.filter (fun e => e.2 != 0)).length

/-- Σ FREQ[x] × len(CODE[x]) (41_tree_and_codes R184). -/
def codeCost (f : Table Word) (c : Table Code) : Nat :=
  (f.pairs.map (fun e => e.2.toNat * (c.get e.1).length)).sum

/-- The bytes `out` stand at the latched destination, and every other byte of memory is as in `s`. -/
def State.WroteExactly (s t : State) (out : List Byte) : Prop :=
  (∀ j, (h : j < out.length) → Memory.read t.mem (s.latch.dstAddr.toNat + j) = out[j]) ∧
    ∀ a, ¬ (s.latch.dstAddr.toNat ≤ a ∧ a < s.latch.dstAddr.toNat + out.length) →
      Memory.read t.mem a = Memory.read s.mem a

/-- The latched source region holds the container of `pad`, the serialized table of `c` and the payload `p`, and every
check of the parser is met (30_encoding R120 to R122, R129; 44_decoder R258). -/
def State.HoldsContainer (s : State) (pad : Nat) (c : Table Code) (p : List Byte) : Prop :=
  CodeOk c ∧ s.sourceBytes = be32Bytes pad ++ be32Bytes (serializeTable c).length ++ serializeTable c ++ p ∧
    pad ≤ 7 ∧ pad ≤ 8 * p.length ∧ ((∀ x, c.get x = []) → p = [])

end Sys2Proof.Machine
end

