-- ==== Sys2Proof/Certificates/Slice0/Obligations.lean ====
section
/-! DEFINITION. The statements about HUFFCORE for the provers. Each docstring names the rule or sections it rests on. -/

open Sys2Proof Sys2Proof.Machine

/-! ## The command word -/

/-- Decoding the word of a well-formed command gives the command back, ILLEGAL's two fields at every value included
(30_encoding R106, R108, R109). -/
def Obligations.DecodeInvertsEncode : Prop :=
  ∀ i : Instr, i.wf = true → decodeWord (encode i) = i

/-- Every 32-bit word is the encoding of the well-formed command it decodes to: no word is without a command and no bit
is dropped (30_encoding R105, R108, R109). -/
def Obligations.EveryWordIsTheEncodingOfItsCommand : Prop :=
  ∀ w : Word, (decodeWord w).wf = true ∧ encode (decodeWord w) = w

/-- The words of the opcode map, written out, decode to the commands they stand for (30_encoding R108, R109). -/
def Obligations.OpcodeMapWordsDecode : Prop :=
  decodeTableWord 32 0b0000_0000_0000_0000_0000_0000_0000_0000 = some .nop ∧
  decodeTableWord 32 0b0000_0000_0000_0000_0000_0000_0000_0001 = some .freqClear ∧
  decodeTableWord 32 0b0000_0000_0000_0000_0000_0000_0000_0010 = some .freqAccum ∧
  decodeTableWord 32 0b0000_0000_0000_0000_0000_0000_0000_0011 = some .buildCodes ∧
  decodeTableWord 32 0b0000_0000_0000_0000_0000_0000_0000_0100 = some .encode ∧
  decodeTableWord 32 0b0000_0000_0000_0000_0000_0000_0000_0101 = some .compress ∧
  decodeTableWord 32 0b0000_0000_0000_0000_0000_0000_0000_0110 = some .parseHeader ∧
  decodeTableWord 32 0b0000_0000_0000_0000_0000_0000_0000_0111 = some .decompress ∧
  decodeTableWord 32 0b0000_0000_0000_0000_0000_0000_0000_1000 = some (.illegal 0x8 0) ∧
  decodeTableWord 32 0b0000_0000_0000_0000_0000_0000_0001_0101 = some (.illegal 0x5 1)

/-! ## Acceptance, dispatch and the step -/

/-- A CMD write while idle is accepted: the latch, BUSY, DONE, ERR, ERR_CODE, OVR and the three result registers take
what the rule gives, and everything else stays (45_control R292). -/
def Obligations.CmdWriteWhileIdleIsAccepted : Prop :=
  ∀ (s : State) (es : List Event) (v : Word), s.events = .host (.wr 32 0x00C v) :: es → s.busy = false →
    step s = .next { s with
      events := es
      latch :=
        { opcode := v.setWidth 4
          rsvNz := decide (v.toNat / 16 ≠ 0)
          srcAddr := s.srcAddr
          srcLen := s.srcLen
          dstAddr := s.dstAddr
          dstCap := s.dstCap }
      busy := true
      done := false
      err := false
      errCode := .ok
      ovr := false
      outLen := 0
      padCount := 0
      tableLen := 0 }

/-- A CMD write while busy sets OVR and changes nothing else (45_control R291). -/
def Obligations.CmdWriteWhileBusySetsOnlyOvr : Prop :=
  ∀ (s : State) (es : List Event) (v : Word), s.events = .host (.wr 32 0x00C v) :: es → s.busy = true →
    step s = .next { s with events := es, ovr := true }

/-- A step of the busy machine in which the ENGINE moves is exec of the latched command: with nothing pending, on the
ENGINE's own event, and when the host can only WAIT (10_state R31; 45_control R292; 70_reset R360, R367). -/
def Obligations.StepRunsTheLatchedCommand : Prop :=
  ∀ s : State, s.busy = true →
    (s.events = [] → step s = exec s.latchedInstr s) ∧
    (∀ es, s.events = .engine :: es → step s = exec s.latchedInstr { s with events := es }) ∧
    (∀ es, s.events = .host .wait :: es → step s = exec s.latchedInstr s)

/-- The step after a command word is accepted is exec of the command the decoder reads from that word, illegal words
included (45_control R292; 30_encoding R108, R109). -/
def Obligations.AcceptedWordRunsNext : Prop :=
  ∀ (s : State) (n w : Nat), n ≤ 32 → w < 2 ^ n →
    ∃ i, decodeTableWord n w = some i ∧ step (s.withFetchWord n w) = exec i (s.withFetchWord n w)

/-! ## Completion and errors -/

/-- Completion with code e, field by field; nothing else changes (60_exceptions R320). -/
def Obligations.CompletionWritesTheseFields : Prop :=
  ∀ (s : State) (e : ErrCode), s.complete e =
    { s with
      busy := false
      done := true
      errCode := e
      err := decide (e ≠ .ok)
      irqStatus := s.irqStatus ||| (if e = .ok then 0b01#2 else 0b11#2) }

/-- Every command, in every state, ends in a completion; on the way it writes at most OUT_LEN, PAD_COUNT, TABLE_LEN,
FREQ, SAT, CODE and memory, and draws free values (60_exceptions R310, R320; 70_reset R366). -/
def Obligations.EveryCommandCompletes : Prop :=
  ∀ (i : Instr) (s : State), ∃ (t : State) (e : ErrCode), exec i s = .next t ∧
    t = ({ s with
      outLen := t.outLen
      padCount := t.padCount
      tableLen := t.tableLen
      freq := t.freq
      sat := t.sat
      code := t.code
      mem := t.mem
      draws := t.draws }).complete e

/-- Each command reports only the error codes its row lists (60_exceptions R311, R315). -/
def Obligations.ErrorCodesOfEachCommand : Prop :=
  ∀ s t : State,
    (exec .nop s = .next t → t.errCode = .ok) ∧
    (exec .freqClear s = .next t → t.errCode = .ok) ∧
    (exec .buildCodes s = .next t → t.errCode = .ok) ∧
    (∀ o r, exec (.illegal o r) s = .next t → t.errCode = .illegalCmd) ∧
    (exec .freqAccum s = .next t → t.errCode ∈ [.ok, .region]) ∧
    (exec .encode s = .next t → t.errCode ∈ [.ok, .region, .noCode, .dstOverflow]) ∧
    (exec .compress s = .next t → t.errCode ∈ [.ok, .region, .dstOverflow]) ∧
    (exec .parseHeader s = .next t →
      t.errCode ∈ [.ok, .region, .malformedHeader, .invalidPadding, .invalidCodeTable]) ∧
    (exec .decompress s = .next t →
      t.errCode ∈ [.ok, .region, .malformedHeader, .invalidPadding, .invalidCodeTable, .unresolvableBits, .dstOverflow])

/-- A command that uses a region fails with REGION exactly when its region check fails, on exact sums; the commands that
use none never do (20_memory R87; 60_exceptions R312). -/
def Obligations.RegionErrorExactlyWhenTheCheckFails : Prop :=
  ∀ s t : State,
    (exec .freqAccum s = .next t ∨ exec .parseHeader s = .next t →
      (t.errCode = .region ↔ ¬ s.latch.SourceInRange)) ∧
    (exec .encode s = .next t ∨ exec .compress s = .next t ∨ exec .decompress s = .next t →
      (t.errCode = .region ↔ ¬ s.latch.SourceInRange ∨ ¬ s.latch.DestInRange ∨ s.latch.RegionsOverlap)) ∧
    (exec .nop s = .next t ∨ exec .freqClear s = .next t ∨ exec .buildCodes s = .next t ∨
        (∃ o r, exec (.illegal o r) s = .next t) →
      t.errCode ≠ .region)

/-- REGION and ILLEGAL_CMD change nothing apart from acceptance and completion: FREQ, SAT, CODE and MEM are as before
the command, and the result registers read 0 (60_exceptions R313). -/
def Obligations.RegionAndIllegalChangeNothing : Prop :=
  ∀ (s t : State) (v : Word) (i : Instr), exec i (s.accept v) = .next t →
    (t.errCode = .region ∨ t.errCode = .illegalCmd) →
    t = (s.accept v).complete t.errCode ∧ t.freq = s.freq ∧ t.sat = s.sat ∧ t.code = s.code ∧ t.mem = s.mem ∧
      t.outLen = 0 ∧ t.padCount = 0 ∧ t.tableLen = 0

/-! ## NOP and the illegal command -/

/-- NOP does nothing and completes. Started by an accepted word 0 it passes through BUSY = 1, leaves STATUS at DONE (and
SAT as it was) and the three result registers at 0, and sets DONE_IS, so that irq is high if DONE_IE is set (45_control
R293). -/
def Obligations.NopOnlyCompletes : Prop :=
  ∀ s : State, exec .nop s = .next (s.complete .ok) ∧
    (s.withFetchWord 32 0x00000000).busy = true ∧
    ∃ t, step (s.withFetchWord 32 0x00000000) = .next t ∧ t = (s.withFetchWord 32 0x00000000).complete .ok ∧
      t.regValue .status = (if s.sat then 0x12 else 0x2) ∧
      t.outLen = 0 ∧ t.padCount = 0 ∧ t.tableLen = 0 ∧
      t.irqStatus = s.irqStatus ||| 0b01#2 ∧ (s.irqEn.getLsbD 0 = true → t.irq = true)

/-- An accepted word with OPCODE 8 or more, or with RESERVED not 0, runs as the illegal command, whatever the regions: it
fails with ILLEGAL_CMD, changes nothing else, leaves STATUS at DONE, ERR and code 8 (and SAT as it was), and CMD reads
back bits 3:0 (45_control R294; 30_encoding R109). -/
def Obligations.IllegalCommandFails : Prop :=
  (∀ (o : BitVec 4) (r : BitVec 28) (s : State), exec (.illegal o r) s = .next (s.complete .illegalCmd)) ∧
  ∀ (s : State) (v : Word), (8 ≤ v.toNat % 16 ∨ v.toNat / 16 ≠ 0) →
    ∃ t, step (s.withFetchWord 32 v.toNat) = .next t ∧ t = (s.withFetchWord 32 v.toNat).complete .illegalCmd ∧
      t.regValue .status = (if s.sat then 0x0816 else 0x0806) ∧
      t.freq = s.freq ∧ t.code = s.code ∧ t.sat = s.sat ∧ t.mem = s.mem ∧
      (t.regValue .cmd).toNat = v.toNat % 16

/-! ## The frequency accumulator -/

/-- FREQ_CLEAR, command word 1, zeroes every counter and SAT, and nothing else (40_frequency R151). -/
def Obligations.FreqClearZeroesTheCounters : Prop :=
  decodeTableWord 32 0x00000001 = some .freqClear ∧
  ∀ s : State, ∃ t, exec .freqClear s = .next t ∧ (∀ x, t.freq.get x = 0) ∧ t.sat = false ∧
    t = ({ s with freq := t.freq, sat := t.sat }).complete .ok

/-- FREQ_ACCUM, command word 2, adds to each counter the number of source positions that hold its symbol, saturating at 2^32 - 1, and
sets SAT if an exact sum exceeds it; a source out of range gives REGION and changes nothing (40_frequency R152, R153).
-/
def Obligations.FreqAccumAddsTheCounts : Prop :=
  decodeTableWord 32 0x00000002 = some .freqAccum ∧
  ∀ s : State,
    (s.latch.SourceInRange →
      ∃ t, exec .freqAccum s = .next t ∧
        (∀ x, (t.freq.get x).toNat = min ((s.freq.get x).toNat + s.occurrences x) (2 ^ 32 - 1)) ∧
        (t.sat = true ↔ s.sat = true ∨ ∃ x, 2 ^ 32 - 1 < (s.freq.get x).toNat + s.occurrences x) ∧
        t = ({ s with freq := t.freq, sat := t.sat }).complete .ok) ∧
    (¬ s.latch.SourceInRange → exec .freqAccum s = .next (s.complete .region))

/-- Chunks: FREQ_ACCUM over A and then over B leaves FREQ as one FREQ_ACCUM over A ++ B, when no counter saturates
(40_frequency R154). -/
def Obligations.ChunkedAccumulationIsOneAccumulation : Prop :=
  ∀ s u v t₁ t₂ t : State,
    exec .freqAccum s = .next t₁ → t₁.errCode = .ok → u.freq = t₁.freq →
    exec .freqAccum u = .next t₂ → t₂.errCode = .ok →
    v.freq = s.freq → v.sourceBytes = s.sourceBytes ++ u.sourceBytes →
    exec .freqAccum v = .next t → t.errCode = .ok →
    (∀ x, (v.freq.get x).toNat + v.occurrences x ≤ 2 ^ 32 - 1) →
    t₂.freq = t.freq

/-- FREQ_CLEAR and then FREQ_ACCUM, started as any command is with a latch of its own, make FREQ the frequency table of
the source: exact counts, at least 1 precisely for the symbols present, all 0 exactly for an empty source (40_frequency
R155). -/
def Obligations.ClearThenAccumIsTheFrequencyTable : Prop :=
  ∀ s t v u : State, exec .freqClear s = .next t → v.freq = t.freq → v.latch.SourceInRange →
    exec .freqAccum v = .next u →
    (∀ x, (u.freq.get x).toNat = v.occurrences x) ∧
    (∀ x, 1 ≤ (u.freq.get x).toNat ↔ ∃ i, i < v.latch.srcLen.toNat ∧ v.sourceByte i = x) ∧
    ((∀ x, u.freq.get x = 0) ↔ v.latch.srcLen = 0)

/-! ## The tree builder and code assignment -/

/-- The merge comparator: in a list of non-decreasing weight a new node goes after every entry of strictly smaller
weight and before every entry of equal or greater weight, and the list stays ordered (41_tree_and_codes R172, R174). -/
def Obligations.NewNodeGoesBeforeEqualWeights : Prop :=
  ∀ (l : List Entry) (n : Entry), l.Pairwise (fun a b => a.weight ≤ b.weight) →
    ∃ before after, l = before ++ after ∧ insertEntry l n = before ++ n :: after ∧
      (∀ e ∈ before, e.weight < n.weight) ∧ (∀ e ∈ after, n.weight ≤ e.weight) ∧
      (insertEntry l n).Pairwise (fun a b => a.weight ≤ b.weight)

/-- BUILD_CODES always succeeds, changes CODE alone, and what it writes depends on FREQ alone (41_tree_and_codes R180,
R183). -/
def Obligations.BuildCodesChangesOnlyCode : Prop :=
  (∀ s : State, ∃ t, exec .buildCodes s = .next t ∧ t = ({ s with code := t.code }).complete .ok) ∧
  ∀ s u t v : State, s.freq = u.freq → exec .buildCodes s = .next t → exec .buildCodes u = .next v → t.code = v.code

/-- BUILD_CODES gives a code to exactly the symbols present in FREQ (41_tree_and_codes R171, R177, R178). -/
def Obligations.BuildCodesCodesExactlyThePresentSymbols : Prop :=
  ∀ s t : State, exec .buildCodes s = .next t → ∀ x, t.code.get x ≠ [] ↔ s.freq.get x ≠ 0

/-- The degenerate trees: no symbol present gives the empty table, and one gives it the one-bit code 0 (41_tree_and_codes
R176, R178). -/
def Obligations.NoSymbolAndSingleSymbolCodes : Prop :=
  ∀ s t : State, exec .buildCodes s = .next t →
    ((∀ x, s.freq.get x = 0) → ∀ x, t.code.get x = []) ∧
    (∀ x, s.freq.get x ≠ 0 → (∀ y, y ≠ x → s.freq.get y = 0) →
      t.code.get x = [false] ∧ ∀ y, y ≠ x → t.code.get y = [])

/-- The tie-break: four symbols of one equal weight, in ascending order, get 10, 11, 00 and 01, because each new node
goes before the older nodes of its weight (41_tree_and_codes R171 to R173, R177). -/
def Obligations.FourEqualWeightsShowTheTieBreak : Prop :=
  ∀ (s t : State) (w x y z : Byte) (k : Word), exec .buildCodes s = .next t → k ≠ 0 →
    w.toNat < x.toNat → x.toNat < y.toNat → y.toNat < z.toNat →
    s.freq.get w = k → s.freq.get x = k → s.freq.get y = k → s.freq.get z = k →
    (∀ a, a ≠ w → a ≠ x → a ≠ y → a ≠ z → s.freq.get a = 0) →
    t.code.get w = [true, false] ∧ t.code.get x = [true, true] ∧ t.code.get y = [false, false] ∧
      t.code.get z = [false, true]

/-- The code BUILD_CODES writes is prefix-free, whatever FREQ holds (41_tree_and_codes R186). -/
def Obligations.BuiltCodeIsPrefixFree : Prop :=
  ∀ s t : State, exec .buildCodes s = .next t → PrefixFree t.code

/-- The lengths of the codes BUILD_CODES writes: 1 to n - 1 for n ≥ 2 present symbols, 1 for a single one, so never more
than 255 (41_tree_and_codes R182). -/
def Obligations.BuiltCodeLengths : Prop :=
  ∀ s t : State, exec .buildCodes s = .next t → ∀ x, s.freq.get x ≠ 0 →
    1 ≤ (t.code.get x).length ∧
    (2 ≤ presentCount s.freq → (t.code.get x).length ≤ presentCount s.freq - 1) ∧
    (presentCount s.freq = 1 → (t.code.get x).length = 1) ∧
    (t.code.get x).length ≤ 255

/-- The code BUILD_CODES writes is optimal for the weights in FREQ: no prefix-free code for the present symbols costs
less. A single symbol has length 1, not 0, the least a code can have (41_tree_and_codes R184). -/
def Obligations.BuiltCodeIsOptimal : Prop :=
  ∀ s t : State, exec .buildCodes s = .next t →
    (∀ c : Table Code, PrefixFree c → (∀ x, s.freq.get x ≠ 0 → c.get x ≠ []) →
      codeCost s.freq t.code ≤ codeCost s.freq c) ∧
    ∀ x, s.freq.get x ≠ 0 → (∀ y, y ≠ x → s.freq.get y = 0) → (t.code.get x).length = 1

/-! ## The packer and unpacker -/

/-- Pack(u): ceil(N / 8) bytes, 8 × len(P) - N = (8 - N mod 8) mod 8 padding bits, and bit 7 - i of byte k is bit 8k + i
of u followed by zeros; bits written in any number of calls pack as one (42_bit_packing R200, R203). -/
def Obligations.PackLengthPaddingAndBits : Prop :=
  ∀ u : Code,
    (pack u).1.length = (u.length + 7) / 8 ∧ (pack u).2 = 8 * (pack u).1.length - u.length ∧
    (pack u).2 = (8 - u.length % 8) % 8 ∧
    (∀ k, (h : k < (pack u).1.length) → ∀ i, i < 8 →
      ((pack u).1[k]).getLsbD (7 - i) = u.getD (8 * k + i) false) ∧
    ∀ pieces : List Code, pieces.flatten = u → finishBits (pieces.foldl writeBits ⟨[], []⟩) = pack u

/-- Dropping the padding Pack reports gives the bits back (42_bit_packing R207). -/
def Obligations.RetainInvertsPack : Prop :=
  ∀ u : Code, (pack u).2 ≤ 8 * (pack u).1.length ∧ retain (pack u).1 (pack u).2 = u

/-! ## The code table's file format and the decoder -/

/-- ParseTable accepts exactly the serialized forms of the prefix-free tables with codes of at most 255 bits, and gives
that table (30_encoding R129; 41_tree_and_codes R181; 44_decoder R254 to R256). -/
def Obligations.ParseTableAcceptsExactlySerializedTables : Prop :=
  ∀ (bytes : List Byte) (tab : Table Code),
    parseTable bytes = some tab ↔ CodeOk tab ∧ serializeTable tab = bytes

/-- Decode succeeds exactly on a concatenation of codes, and gives its symbols, which are unique (44_decoder R259). -/
def Obligations.DecodeExactlyConcatenationsOfCodes : Prop :=
  ∀ (c : Table Code) (v : Code) (out : List Byte), PrefixFree c →
    (decodeBits (codedEntries c) [] v = some out ↔ (∀ x ∈ out, c.get x ≠ []) ∧ v = out.flatMap (fun x => c.get x))

/-! ## ENCODE and COMPRESS -/

/-- ENCODE's success: regions legal, every source byte coded, the container fits. The container is written, the three
result registers are set, and CODE, FREQ, the source and every other byte of memory stay (43_encoder R222, R224, R226).
-/
def Obligations.EncodeWritesTheContainer : Prop :=
  ∀ (s : State) (table payload : List Byte) (pad : Nat),
    s.latch.RegionsLegal →
    (∀ i, i < s.latch.srcLen.toNat → s.code.get (s.sourceByte i) ≠ []) →
    table = serializeTable s.code →
    (payload, pad) = pack (s.sourceBytes.flatMap (fun x => s.code.get x)) →
    8 + table.length + payload.length ≤ s.latch.dstCap.toNat →
    ∃ t, exec .encode s = .next t ∧
      s.WroteExactly t (be32Bytes pad ++ be32Bytes table.length ++ table ++ payload) ∧
      t.outLen.toNat = 8 + table.length + payload.length ∧ t.padCount.toNat = pad ∧ t.tableLen.toNat = table.length ∧
      t = ({ s with mem := t.mem, outLen := t.outLen, padCount := t.padCount, tableLen := t.tableLen }).complete .ok

/-- ENCODE's errors in their order: REGION; then NO_CODE, even where the container would not fit; then DST_OVERFLOW. The
last two leave only the destination region's bytes open (43_encoder R223, R224). -/
def Obligations.EncodeErrorsInOrder : Prop :=
  ∀ s : State,
    (¬ s.latch.RegionsLegal → exec .encode s = .next (s.complete .region)) ∧
    (s.latch.RegionsLegal → (∃ i, i < s.latch.srcLen.toNat ∧ s.code.get (s.sourceByte i) = []) →
      ∃ t, exec .encode s = .next t ∧ t = ({ s with mem := t.mem, draws := t.draws }).complete .noCode ∧
        ∀ a, s.latch.OutsideDest a → Memory.read t.mem a = Memory.read s.mem a) ∧
    (s.latch.RegionsLegal → (∀ i, i < s.latch.srcLen.toNat → s.code.get (s.sourceByte i) ≠ []) →
      s.latch.dstCap.toNat < (containerOf s.code s.sourceBytes).length →
      ∃ t, exec .encode s = .next t ∧ t = ({ s with mem := t.mem, draws := t.draws }).complete .dstOverflow ∧
        ∀ a, s.latch.OutsideDest a → Memory.read t.mem a = Memory.read s.mem a)

/-- COMPRESS's success: FREQ holds the source's counts, SAT is 0, CODE is what BUILD_CODES makes of that FREQ, and the
container of the source under that CODE is written (43_encoder R232). -/
def Obligations.CompressCountsBuildsAndEncodes : Prop :=
  ∀ (s : State) (c : Table Code) (table payload : List Byte) (pad : Nat),
    s.latch.RegionsLegal →
    c = builtCodes (accumulated (Table.fill 0) s.sourceBytes) →
    table = serializeTable c →
    (payload, pad) = pack (s.sourceBytes.flatMap (fun x => c.get x)) →
    8 + table.length + payload.length ≤ s.latch.dstCap.toNat →
    ∃ t, exec .compress s = .next t ∧
      (∀ x, (t.freq.get x).toNat = s.occurrences x) ∧ t.sat = false ∧
      (∀ u v : State, u.freq = t.freq → exec .buildCodes u = .next v → t.code = v.code) ∧
      (∀ i, i < s.latch.srcLen.toNat → t.code.get (s.sourceByte i) ≠ []) ∧
      t.code = c ∧
      s.WroteExactly t (be32Bytes pad ++ be32Bytes table.length ++ table ++ payload) ∧
      t.outLen.toNat = 8 + table.length + payload.length ∧ t.padCount.toNat = pad ∧ t.tableLen.toNat = table.length ∧
      t = ({ s with
        mem := t.mem
        outLen := t.outLen
        padCount := t.padCount
        tableLen := t.tableLen
        freq := t.freq
        sat := t.sat
        code := t.code }).complete .ok

/-- COMPRESS's errors: REGION leaves FREQ, SAT, CODE and MEM unchanged; DST_OVERFLOW leaves FREQ, SAT and CODE at their
new values and the destination region's bytes open, no other byte; NO_CODE does not occur (43_encoder R233). -/
def Obligations.CompressErrorsInOrder : Prop :=
  ∀ s : State,
    (¬ s.latch.RegionsLegal → exec .compress s = .next (s.complete .region)) ∧
    (s.latch.RegionsLegal →
      s.latch.dstCap.toNat <
        (containerOf (builtCodes (accumulated (Table.fill 0) s.sourceBytes)) s.sourceBytes).length →
      ∃ t, exec .compress s = .next t ∧
        (∀ x, (t.freq.get x).toNat = s.occurrences x) ∧ t.sat = false ∧
        (∀ u v : State, u.freq = t.freq → exec .buildCodes u = .next v → t.code = v.code) ∧
        (∀ a, s.latch.OutsideDest a → Memory.read t.mem a = Memory.read s.mem a) ∧
        t = ({ s with
          mem := t.mem
          draws := t.draws
          freq := t.freq
          sat := t.sat
          code := t.code }).complete .dstOverflow) ∧
    ∀ t, exec .compress s = .next t → t.errCode ≠ .noCode

/-- COMPRESS of nothing, with room for 8 bytes, writes the empty container of 8 zero bytes and empties FREQ and CODE
(43_encoder R234; 30_encoding R124). -/
def Obligations.CompressOfNothingIsTheEmptyContainer : Prop :=
  ∀ s : State, s.latch.RegionsLegal → s.latch.srcLen = 0 → 8 ≤ s.latch.dstCap.toNat →
    ∃ t, exec .compress s = .next t ∧ t.errCode = .ok ∧ s.WroteExactly t (List.replicate 8 0) ∧
      t.outLen = 8 ∧ t.padCount = 0 ∧ t.tableLen = 0 ∧ (∀ x, t.freq.get x = 0) ∧ ∀ x, t.code.get x = []

/-- The length of COMPRESS's container: the header, 2 + len(CODE[x]) for each present symbol, and the code bits rounded
up to whole bytes (43_encoder R234; 42_bit_packing R203). -/
def Obligations.CompressContainerLength : Prop :=
  ∀ s t : State, exec .compress s = .next t → t.errCode = .ok →
    t.outLen.toNat =
      8 + ((symbols.filter (fun x => t.freq.get x != 0)).map (fun x => 2 + (t.code.get x).length)).sum +
        (codeCost t.freq t.code + 7) / 8

/-- Round trip: DECOMPRESS of the container a COMPRESS wrote, into a legal destination with room, gives the compressed
bytes back, exactly (43_encoder R235). -/
def Obligations.DecompressInvertsCompress : Prop :=
  ∀ s t u : State, exec .compress s = .next t → t.errCode = .ok →
    u.latch.RegionsLegal → u.latch.srcLen = t.outLen →
    (∀ j, j < t.outLen.toNat → u.sourceByte j = Memory.read t.mem (s.latch.dstAddr.toNat + j)) →
    s.latch.srcLen.toNat ≤ u.latch.dstCap.toNat →
    ∃ v, exec .decompress u = .next v ∧ v.errCode = .ok ∧ v.outLen = s.latch.srcLen ∧ u.WroteExactly v s.sourceBytes

/-! ## PARSE_HEADER and DECOMPRESS -/

/-- PARSE_HEADER's success: of a container in the source it loads CODE and the two header fields, and changes nothing
else, no byte of memory (44_decoder R261, R262). -/
def Obligations.ParseHeaderLoadsTheTable : Prop :=
  ∀ (s : State) (pad : Nat) (c : Table Code) (p : List Byte), s.latch.SourceInRange → s.HoldsContainer pad c p →
    ∃ t, exec .parseHeader s = .next t ∧ t.code = c ∧ t.padCount.toNat = pad ∧
      t.tableLen.toNat = (serializeTable c).length ∧
      t = ({ s with code := t.code, padCount := t.padCount, tableLen := t.tableLen }).complete .ok

/-- The code PARSE_HEADER ends with, check by check in the order of its pseudocode; DECOMPRESS fails the same checks in
the same order before it decodes (44_decoder R251, R253, R258, R261, R271; 60_exceptions R315). -/
def Obligations.ParserErrorsInOrder : Prop :=
  ∀ (s t : State) (pad tl : Nat) (payload : List Byte),
    pad = (be32 (s.sourceByte 0) (s.sourceByte 1) (s.sourceByte 2) (s.sourceByte 3)).toNat →
    tl = (be32 (s.sourceByte 4) (s.sourceByte 5) (s.sourceByte 6) (s.sourceByte 7)).toNat →
    payload = s.sourceBytes.drop (8 + tl) →
    (exec .parseHeader s = .next t ∧ s.latch.SourceInRange) ∨ (exec .decompress s = .next t ∧ s.latch.RegionsLegal) →
    (s.latch.srcLen.toNat < 8 → t.errCode = .malformedHeader) ∧
    (8 ≤ s.latch.srcLen.toNat → s.latch.srcLen.toNat < 8 + tl → t.errCode = .malformedHeader) ∧
    (8 + tl ≤ s.latch.srcLen.toNat → 7 < pad → t.errCode = .invalidPadding) ∧
    (8 + tl ≤ s.latch.srcLen.toNat → pad ≤ 7 →
      ((¬ ∃ tab, CodeOk tab ∧ serializeTable tab = (s.sourceBytes.drop 8).take tl) →
        t.errCode = .invalidCodeTable) ∧
      ∀ tab, CodeOk tab → serializeTable tab = (s.sourceBytes.drop 8).take tl →
        ((∀ x, tab.get x = []) → payload ≠ [] → t.errCode = .invalidCodeTable) ∧
        (((∃ x, tab.get x ≠ []) ∨ payload = []) → 8 * payload.length < pad → t.errCode = .invalidPadding) ∧
        (((∃ x, tab.get x ≠ []) ∨ payload = []) → pad ≤ 8 * payload.length →
          t.errCode ∈ [.ok, .unresolvableBits, .dstOverflow] ∧ (exec .parseHeader s = .next t → t.errCode = .ok)))

/-- The header fields stand in PAD_COUNT and TABLE_LEN, big-endian, whatever check fails after they are read; of a
source shorter than 8 bytes nothing is read (44_decoder R252). -/
def Obligations.HeaderFieldsStandWhateverFails : Prop :=
  ∀ s t : State,
    (exec .parseHeader s = .next t ∧ s.latch.SourceInRange) ∨ (exec .decompress s = .next t ∧ s.latch.RegionsLegal) →
    (8 ≤ s.latch.srcLen.toNat →
      t.padCount.toNat = (s.sourceByte 0).toNat * 2 ^ 24 + (s.sourceByte 1).toNat * 2 ^ 16 +
        (s.sourceByte 2).toNat * 2 ^ 8 + (s.sourceByte 3).toNat ∧
      t.tableLen.toNat = (s.sourceByte 4).toNat * 2 ^ 24 + (s.sourceByte 5).toNat * 2 ^ 16 +
        (s.sourceByte 6).toNat * 2 ^ 8 + (s.sourceByte 7).toNat) ∧
    (s.latch.srcLen.toNat < 8 → t.padCount = s.padCount ∧ t.tableLen = s.tableLen)

/-- What CODE holds after PARSE_HEADER and DECOMPRESS: nothing (NSYM = 0) after a parse that failed, what it held after
REGION, the parsed table after a success and after the two errors only DECOMPRESS raises (44_decoder R257). An error
changes nothing beside CODE, the header fields and, for DECOMPRESS, memory: FREQ and SAT stay (60_exceptions R310). -/
def Obligations.CodeAfterParserErrors : Prop :=
  ∀ (s t : State) (i : Instr), i = .parseHeader ∨ i = .decompress → exec i s = .next t →
    ((t.errCode = .malformedHeader ∨ t.errCode = .invalidPadding ∨ t.errCode = .invalidCodeTable) →
      (∀ x, t.code.get x = []) ∧ t.nsym = 0) ∧
    (t.errCode = .region → t.code = s.code) ∧
    ((t.errCode = .unresolvableBits ∨ t.errCode = .dstOverflow) → i = .decompress) ∧
    ((t.errCode = .ok ∨ t.errCode = .unresolvableBits ∨ t.errCode = .dstOverflow) →
      CodeOk t.code ∧ serializeTable t.code = (s.sourceBytes.drop 8).take t.tableLen.toNat) ∧
    (t.errCode ≠ .ok →
      t = ({ s with
        code := t.code
        padCount := t.padCount
        tableLen := t.tableLen
        mem := t.mem
        draws := t.draws }).complete t.errCode) ∧
    (i = .parseHeader → t.mem = s.mem ∧ t.draws = s.draws)

/-- DECOMPRESS's success: a container whose retained bits are the codes of `out`, with room for `out`. The symbols are
written, the result registers and CODE are set, and nothing else changes (44_decoder R259, R270). -/
def Obligations.DecompressWritesTheSymbols : Prop :=
  ∀ (s : State) (pad : Nat) (c : Table Code) (p out : List Byte),
    s.latch.RegionsLegal → s.HoldsContainer pad c p →
    (∀ x ∈ out, c.get x ≠ []) →
    (unpack p).take (8 * p.length - pad) = out.flatMap (fun x => c.get x) →
    out.length ≤ s.latch.dstCap.toNat →
    ∃ t, exec .decompress s = .next t ∧ s.WroteExactly t out ∧ t.outLen.toNat = out.length ∧ t.code = c ∧
      t.padCount.toNat = pad ∧ t.tableLen.toNat = (serializeTable c).length ∧
      t = ({ s with
        mem := t.mem
        outLen := t.outLen
        padCount := t.padCount
        tableLen := t.tableLen
        code := t.code }).complete .ok

/-- DECOMPRESS's own errors: REGION changes nothing; of a valid container, retained bits that are no concatenation of
codes give UNRESOLVABLE_BITS whatever the room, and symbols without room give DST_OVERFLOW; OUT_LEN and every byte
outside the destination region stay (44_decoder R257, R260, R271). -/
def Obligations.DecompressErrorsAfterTheParse : Prop :=
  ∀ s : State,
    (¬ s.latch.RegionsLegal → exec .decompress s = .next (s.complete .region)) ∧
    ∀ (pad : Nat) (c : Table Code) (p : List Byte), s.latch.RegionsLegal → s.HoldsContainer pad c p →
      ((¬ ∃ out : List Byte, (∀ x ∈ out, c.get x ≠ []) ∧
            (unpack p).take (8 * p.length - pad) = out.flatMap (fun x => c.get x)) →
        ∃ t, exec .decompress s = .next t ∧ t.errCode = .unresolvableBits ∧ t.code = c ∧ t.outLen = s.outLen ∧
          ∀ a, s.latch.OutsideDest a → Memory.read t.mem a = Memory.read s.mem a) ∧
      ∀ out : List Byte, (∀ x ∈ out, c.get x ≠ []) →
        (unpack p).take (8 * p.length - pad) = out.flatMap (fun x => c.get x) → s.latch.dstCap.toNat < out.length →
        ∃ t, exec .decompress s = .next t ∧ t.errCode = .dstOverflow ∧ t.code = c ∧ t.outLen = s.outLen ∧
          ∀ a, s.latch.OutsideDest a → Memory.read t.mem a = Memory.read s.mem a

/-! ## What commands read and write -/

/-- No command writes a byte outside its latched destination region; only ENCODE, COMPRESS and DECOMPRESS write memory;
their success leaves every byte past OUT_LEN as it was; REGION and ILLEGAL_CMD leave memory unchanged (20_memory R86). -/
def Obligations.CommandsWriteOnlyTheDestination : Prop :=
  ∀ (i : Instr) (s t : State), exec i s = .next t →
    (∀ a, s.latch.OutsideDest a → Memory.read t.mem a = Memory.read s.mem a) ∧
    (i ≠ .encode → i ≠ .compress → i ≠ .decompress → t.mem = s.mem) ∧
    ((i = .encode ∨ i = .compress ∨ i = .decompress) → t.errCode = .ok →
      t.outLen.toNat ≤ s.latch.dstCap.toNat ∧
      ∀ a, s.latch.dstAddr.toNat + t.outLen.toNat ≤ a → Memory.read t.mem a = Memory.read s.mem a) ∧
    ((t.errCode = .region ∨ t.errCode = .illegalCmd) → t.mem = s.mem)

/-- A command reads no memory outside its latched source region: with memories that agree there, it ends alike, and a
success writes the same bytes (20_memory R85). -/
def Obligations.CommandsReadOnlyTheSource : Prop :=
  ∀ (i : Instr) (s t : State) (m : Memory),
    (∀ j, j < s.latch.srcLen.toNat →
      Memory.read m (s.latch.srcAddr.toNat + j) = Memory.read s.mem (s.latch.srcAddr.toNat + j)) →
    exec i s = .next t →
    ∃ t', exec i { s with mem := m } = .next t' ∧ t' = { t with mem := t'.mem } ∧
      ((i = .encode ∨ i = .compress ∨ i = .decompress) → t.errCode = .ok →
        ∀ j, j < t.outLen.toNat →
          Memory.read t'.mem (s.latch.dstAddr.toNat + j) = Memory.read t.mem (s.latch.dstAddr.toNat + j))

/-- Every command reads only the latched copies: new values in the four parameter registers change nothing of what it
does (10_state R56, R60; 70_reset R361). -/
def Obligations.CommandsReadOnlyTheLatchedParameters : Prop :=
  ∀ (i : Instr) (s t : State) (sa sl da dc : Word), exec i s = .next t →
    exec i { s with srcAddr := sa, srcLen := sl, dstAddr := da, dstCap := dc } =
      .next { t with srcAddr := sa, srcLen := sl, dstAddr := da, dstCap := dc }

/-! ## The host's side -/

/-- The window's map: a register stands at the offset the tables give it and at no other, and the reserved offsets are
0x01C, 0x040 to 0x3FF and 0xC00 to 0xFFF, which read 0 (30_encoding R100 to R104). -/
def Obligations.RegistersStandAtTheirOffsets : Prop :=
  (∀ (r : Reg) (off : Nat), r ≠ .reserved →
    (r.offset = some off ↔ off < 0x3000 ∧ off % 4 = 0 ∧ regAt off = r)) ∧
  (regAt 0x000 = .id ∧ regAt 0x004 = .version ∧ regAt 0x008 = .ctrl ∧ regAt 0x00C = .cmd ∧ regAt 0x010 = .status ∧
    regAt 0x014 = .irqEn ∧ regAt 0x018 = .irqStatus ∧ regAt 0x020 = .srcAddr ∧ regAt 0x024 = .srcLen ∧
    regAt 0x028 = .dstAddr ∧ regAt 0x02C = .dstCap ∧ regAt 0x030 = .outLen ∧ regAt 0x034 = .padCount ∧
    regAt 0x038 = .tableLen ∧ regAt 0x03C = .nsym) ∧
  (∀ x : Byte, regAt (0x400 + 4 * x.toNat) = .freq x ∧ regAt (0x800 + 4 * x.toNat) = .codeLen x ∧
    ∀ k : Fin 8, regAt (0x1000 + 32 * x.toNat + 4 * k.val) = .codeBits x k) ∧
  (∀ off, off < 0x3000 → off % 4 = 0 →
    (regAt off = .reserved ↔ off = 0x01C ∨ (0x040 ≤ off ∧ off < 0x400) ∨ (0xC00 ≤ off ∧ off < 0x1000))) ∧
  ∀ s : State, s.regValue .reserved = 0

/-- A host register write takes effect as its row says and changes no other register, not the latch, the code table,
memory or a mark; a CTRL write with bit 0 = 0 changes nothing. Of CMD and of CTRL with bit 0 = 1 other statements speak
(45_control R295, R296; 10_state R33, R41, R42). That a write outside the window changes nothing is the model's choice
(log 6). -/
def Obligations.HostWriteChangesOnlyTheRegisterWritten : Prop :=
  (∀ (s : State) (es : List Event) (off : Nat) (v : Word), s.events = .host (.wr 32 off v) :: es →
    off < 0x3000 → off % 4 = 0 → off ≠ 0x008 → off ≠ 0x00C →
    ∃ t, step s = .next t ∧
      (∀ r, r ≠ regAt off → t.regValue r = s.regValue r) ∧
      (off = 0x014 → t.irqEn = v.setWidth 2) ∧
      (off = 0x018 → t.irqStatus = s.irqStatus &&& ~~~ (v.setWidth 2)) ∧
      (off = 0x020 → t.srcAddr = v) ∧ (off = 0x024 → t.srcLen = v) ∧
      (off = 0x028 → t.dstAddr = v) ∧ (off = 0x02C → t.dstCap = v) ∧
      (∀ x : Byte, off = 0x400 + 4 * x.toNat → t.freq.get x = if s.busy then s.freq.get x else v) ∧
      t = { s with
        events := es
        irqEn := t.irqEn
        irqStatus := t.irqStatus
        srcAddr := t.srcAddr
        srcLen := t.srcLen
        dstAddr := t.dstAddr
        dstCap := t.dstCap
        freq := t.freq }) ∧
  (∀ (s : State) (es : List Event) (v : Word), s.events = .host (.wr 32 0x008 v) :: es → v.getLsbD 0 = false →
    step s = .next { s with events := es }) ∧
  ∀ (s : State) (es : List Event) (width off : Nat) (v : Word), s.events = .host (.wr width off v) :: es →
    0x3000 ≤ off → step s = .next { s with events := es }

/-- A host read has no side effect. A register read returns the value its rule gives, offset by offset, but for the
result registers and files while busy, whose value is open; a memory read returns MEM's byte, but for a destination byte
while busy, whose value is open (20_memory R90, R93; 45_control R297, R300; 10_state R32 to R34, R41 to R54; 30_encoding
R102). That a read outside the window goes on, with an open value, is the model's choice (log 6). -/
def Obligations.HostReadHasNoSideEffect : Prop :=
  (∀ (s : State) (es : List Event) (off : Nat), s.events = .host (.rd 32 off) :: es → off < 0x3000 → off % 4 = 0 →
    ∃ t v, step s = .next t ∧
      t = { s with events := es, observed := .reg off (some v) :: s.observed, draws := t.draws } ∧
      ((s.busy = false ∨ off < 0x030 ∨ regAt off = .reserved) → v = s.regValue (regAt off)) ∧
      (off = 0x000 → v = 0x48554646) ∧ (off = 0x004 → v = 0x00010000) ∧ (off = 0x008 → v = 0) ∧
      (off = 0x00C → v = s.latch.opcode.setWidth 32) ∧ (off = 0x010 → v = s.regValue .status) ∧
      (off = 0x014 → v = s.irqEn.setWidth 32) ∧ (off = 0x018 → v = s.irqStatus.setWidth 32) ∧
      (off = 0x020 → v = s.srcAddr) ∧ (off = 0x024 → v = s.srcLen) ∧
      (off = 0x028 → v = s.dstAddr) ∧ (off = 0x02C → v = s.dstCap) ∧
      (off = 0x01C ∨ (0x040 ≤ off ∧ off < 0x400) ∨ (0xC00 ≤ off ∧ off < 0x1000) → v = 0) ∧
      (s.busy = false →
        (off = 0x030 → v = s.outLen) ∧ (off = 0x034 → v = s.padCount) ∧ (off = 0x038 → v = s.tableLen) ∧
        (off = 0x03C →
          v.toNat = ((List.range 256).filter (fun n => s.code.get (BitVec.ofNat 8 n) != [])).length) ∧
        ∀ x : Byte,
          (off = 0x400 + 4 * x.toNat → v = s.freq.get x) ∧
          (off = 0x800 + 4 * x.toNat → v = BitVec.ofNat 32 (s.code.get x).length) ∧
          ∀ k : Fin 8, off = 0x1000 + 32 * x.toNat + 4 * k.val → ∀ j, j ≤ 31 →
            v.getLsbD (31 - j) = (s.code.get x).getD (32 * k.val + j) false)) ∧
  (∀ (s : State) (es : List Event) (a : Word), s.events = .host (.memr a) :: es →
    ∃ t v, step s = .next t ∧
      t = { s with events := es, observed := .mem a v :: s.observed, draws := t.draws } ∧
      (s.busy = false ∨ s.latch.OutsideDest a.toNat → v = Memory.read s.mem a.toNat)) ∧
  ∀ (s : State) (es : List Event) (width off : Nat), s.events = .host (.rd width off) :: es → 0x3000 ≤ off →
    ∃ t v, step s = .next t ∧
      t = { s with events := es, observed := .reg off (some v) :: s.observed, draws := t.draws }

/-- A register access that is not 32 bits wide, or not at a multiple of 4, sets REFUSED and does nothing else; a refused
read returns no value (45_control R290). -/
def Obligations.RefusedAccessOnlySetsTheMark : Prop :=
  ∀ (s : State) (es : List Event) (width off : Nat), off < 0x3000 → (width ≠ 32 ∨ off % 4 ≠ 0) →
    (∀ v, s.events = .host (.wr width off v) :: es → step s = .next { s with events := es, refused := true }) ∧
    (s.events = .host (.rd width off) :: es →
      step s = .next { s with events := es, refused := true, observed := .reg off none :: s.observed })

/-- A CTRL write with bit 0 set and the reset input do the same, at any time: every register, file and latch field takes
the reset value the table gives, irq is low and the marks stay. Memory changes at most inside the latched destination region, and not at all unless an
ENCODE, COMPRESS or DECOMPRESS whose region check would pass is aborted (10_state R70; 70_reset R350, R352, R353). -/
def Obligations.SoftAndHardwareResetGiveTheResetState : Prop :=
  ∀ (s : State) (es : List Event),
    ((∃ v : Word, v.getLsbD 0 = true ∧ s.events = .host (.wr 32 0x008 v) :: es) ∨ s.events = .rst :: es) →
    ∃ t, step s = .next t ∧
      t = { State.reset with
        mem := t.mem
        race := s.race
        refused := s.refused
        draws := t.draws
        events := es
        observed := s.observed } ∧
      (t.latch.opcode = 0 ∧ t.latch.rsvNz = false ∧ t.latch.srcAddr = 0 ∧ t.latch.srcLen = 0 ∧ t.latch.dstAddr = 0 ∧
        t.latch.dstCap = 0) ∧
      (t.busy = false ∧ t.done = false ∧ t.err = false ∧ t.ovr = false ∧ t.sat = false ∧ t.errCode = .ok) ∧
      (t.irqEn = 0 ∧ t.irqStatus = 0 ∧ t.srcAddr = 0 ∧ t.srcLen = 0 ∧ t.dstAddr = 0 ∧ t.dstCap = 0) ∧
      (t.outLen = 0 ∧ t.padCount = 0 ∧ t.tableLen = 0 ∧ t.nsym = 0) ∧
      (∀ x, t.freq.get x = 0) ∧ (∀ x, t.code.get x = []) ∧
      t.irq = false ∧ (∀ a, s.latch.OutsideDest a → Memory.read t.mem a = Memory.read s.mem a) ∧
      ((s.busy = false ∨ ¬ s.latch.RegionsLegal ∨
          (s.latchedInstr ≠ .encode ∧ s.latchedInstr ≠ .compress ∧ s.latchedInstr ≠ .decompress)) →
        t.mem = s.mem)

/-- A host byte write into a latched region while busy sets RACE; elsewhere, or while idle, it does not. The byte is
written in each case, and no other state changes: that it lands even in a race is the model's choice (20_memory R93;
45_control R300; log 8). -/
def Obligations.HostMemoryWriteIntoALatchedRegionSetsRace : Prop :=
  ∀ (s : State) (es : List Event) (a : Word) (b : Byte), s.events = .host (.memw a b) :: es →
    ∃ t, step s = .next t ∧
      (t.race = true ↔ s.race = true ∨
        (s.busy = true ∧
          ((s.latch.srcAddr.toNat ≤ a.toNat ∧ a.toNat < s.latch.srcAddr.toNat + s.latch.srcLen.toNat) ∨
            ¬ s.latch.OutsideDest a.toNat))) ∧
      Memory.read t.mem a.toNat = b ∧ (∀ a', a' ≠ a.toNat → Memory.read t.mem a' = Memory.read s.mem a') ∧
      t = { s with events := es, mem := t.mem, race := t.race }

/-- After a step RACE is 1 exactly if it was, or the host wrote a byte of a latched region while busy; REFUSED exactly if
it was, or the host made a refused register access. So no step clears either, a reset included (10_state R59). -/
def Obligations.MarksAreSetByTheirEventsAndNeverCleared : Prop :=
  ∀ s t : State, step s = .next t →
    (t.race = true ↔ s.race = true ∨
      ∃ a b es, s.events = .host (.memw a b) :: es ∧ s.busy = true ∧
        ((s.latch.srcAddr.toNat ≤ a.toNat ∧ a.toNat < s.latch.srcAddr.toNat + s.latch.srcLen.toNat) ∨
          ¬ s.latch.OutsideDest a.toNat)) ∧
    (t.refused = true ↔ s.refused = true ∨
      ∃ width off es, off < 0x3000 ∧ (width ≠ 32 ∨ off % 4 ≠ 0) ∧
        ((∃ v, s.events = .host (.wr width off v) :: es) ∨ s.events = .host (.rd width off) :: es))

/-- A completion that meets a clearing write of IRQ_STATUS leaves the bits it sets at 1; the other bits are cleared
where written 1 (10_state R42; 60_exceptions R316). -/
def Obligations.CompletionWinsOverIrqClear : Prop :=
  ∀ (s t : State) (es : List Event) (v : Word), s.events = .engineMeetsIrqWrite v :: es → s.busy = true →
    step s = .next t →
    t.irqStatus.getLsbD 0 = true ∧
    t.irqStatus.getLsbD 1 = (decide (t.errCode ≠ .ok) || (s.irqStatus.getLsbD 1 && !v.getLsbD 1))

/-! ## The words the host reads -/

/-- irq after a command's completion: high when the done source is enabled, and when the error source is enabled and
this completion or an unacknowledged earlier one ended with error (10_state R58; 60_exceptions R320, R321, R325). -/
def Obligations.IrqAfterACompletion : Prop :=
  ∀ (i : Instr) (s t : State), exec i s = .next t →
    (t.irq = true ↔
      s.irqEn.getLsbD 0 = true ∨
        (s.irqEn.getLsbD 1 = true ∧ (t.errCode ≠ .ok ∨ s.irqStatus.getLsbD 1 = true)))

/-- STATUS, bit by bit, each error code by its number; a write to it is ignored (10_state R35; 60_exceptions R311). -/
def Obligations.StatusWordBits : Prop :=
  ∀ s : State,
    (∀ es v, s.events = .host (.wr 32 0x010 v) :: es → step s = .next { s with events := es }) ∧
    (s.regValue .status).getLsbD 0 = s.busy ∧ (s.regValue .status).getLsbD 1 = s.done ∧
    (s.regValue .status).getLsbD 2 = s.err ∧ (s.regValue .status).getLsbD 3 = s.ovr ∧
    (s.regValue .status).getLsbD 4 = s.sat ∧ ((s.regValue .status).toNat / 32) % 8 = 0 ∧
    (s.errCode = .ok → (s.regValue .status).toNat / 256 = 0) ∧
    (s.errCode = .malformedHeader → (s.regValue .status).toNat / 256 = 1) ∧
    (s.errCode = .invalidCodeTable → (s.regValue .status).toNat / 256 = 2) ∧
    (s.errCode = .invalidPadding → (s.regValue .status).toNat / 256 = 3) ∧
    (s.errCode = .unresolvableBits → (s.regValue .status).toNat / 256 = 4) ∧
    (s.errCode = .noCode → (s.regValue .status).toNat / 256 = 5) ∧
    (s.errCode = .dstOverflow → (s.regValue .status).toNat / 256 = 6) ∧
    (s.errCode = .region → (s.regValue .status).toNat / 256 = 7) ∧
    (s.errCode = .illegalCmd → (s.regValue .status).toNat / 256 = 8)

/-- CODE_BITS packs a code most significant bit first: bit 31 - j of word k is code bit 32k + j, unused bits are 0
(10_state R54). -/
def Obligations.CodeBitsViewIsMsbFirst : Prop :=
  ∀ (s : State) (x : Byte) (k : Fin 8) (j : Nat), j ≤ 31 →
    (s.regValue (.codeBits x k)).getLsbD (31 - j) =
      if h : 32 * k.val + j < (s.code.get x).length then (s.code.get x)[32 * k.val + j] else false

/-! ## Invariants and progress -/

/-- The state after reset meets the invariant. -/
def Obligations.ResetStateMeetsTheInvariant : Prop := State.reset.Inv

/-- Every step keeps the invariant: memory stays canonical, CODE stays a prefix-free code of 1 to 255 bits a symbol, ERR
agrees with ERR_CODE, a busy machine's results stay as acceptance left them, OUT_LEN is 0 after an error, and an idle
machine with DONE = 0 is as reset left it (10_state R37, R38, R47, R55). -/
def Obligations.StepKeepsTheInvariant : Prop :=
  ∀ s t : State, s.Inv → step s = .next t → t.Inv

/-- Progress: no step stops the machine, whatever the host does. While busy a step leaves the command running, completes
it, or is a reset; and the machine is idle after finitely many steps (70_reset R366, R367). The bound, one step more than
there are pending events, is the model's choice: it counts the model's own list of events and rests on the ENGINE moving
when the list is empty (log 3); that host accesses outside the window go on is its choice too (log 6). -/
def Obligations.BusyMachineComesToRest : Prop :=
  (∀ s : State, ∃ t, step s = .next t) ∧
  (∀ s t : State, s.busy = true → step s = .next t →
    (t.busy = true ∧ t.latch = s.latch) ∨ (t.busy = false ∧ t.done = true) ∨
      ∃ es, s.events = .rst :: es ∨ ∃ v : Word, v.getLsbD 0 = true ∧ s.events = .host (.wr 32 0x008 v) :: es) ∧
  ∀ s : State, s.busy = true → ∃ k t, k ≤ s.events.length + 1 ∧ core.run k s = .next t ∧ t.busy = false
end

