-- ==== Sys2Proof/Laws/State.lean ====
section
/-! SUPPORT. Each named update of State, field by field: what it writes and what it leaves (true by unfolding). -/

namespace Sys2Proof.Machine

/-! ### `State.complete` -/

@[simp] theorem State.complete_latch (s : State) (e : ErrCode) : (s.complete e).latch = s.latch := rfl
@[simp] theorem State.complete_busy (s : State) (e : ErrCode) : (s.complete e).busy = false := rfl
@[simp] theorem State.complete_done (s : State) (e : ErrCode) : (s.complete e).done = true := rfl
@[simp] theorem State.complete_err (s : State) (e : ErrCode) : (s.complete e).err = e.isError := rfl
@[simp] theorem State.complete_ovr (s : State) (e : ErrCode) : (s.complete e).ovr = s.ovr := rfl
@[simp] theorem State.complete_sat (s : State) (e : ErrCode) : (s.complete e).sat = s.sat := rfl
@[simp] theorem State.complete_errCode (s : State) (e : ErrCode) : (s.complete e).errCode = e := rfl
@[simp] theorem State.complete_irqEn (s : State) (e : ErrCode) : (s.complete e).irqEn = s.irqEn := rfl
@[simp] theorem State.complete_irqStatus (s : State) (e : ErrCode) : (s.complete e).irqStatus = s.irqStatus ||| completionIrqBits e := rfl
@[simp] theorem State.complete_srcAddr (s : State) (e : ErrCode) : (s.complete e).srcAddr = s.srcAddr := rfl
@[simp] theorem State.complete_srcLen (s : State) (e : ErrCode) : (s.complete e).srcLen = s.srcLen := rfl
@[simp] theorem State.complete_dstAddr (s : State) (e : ErrCode) : (s.complete e).dstAddr = s.dstAddr := rfl
@[simp] theorem State.complete_dstCap (s : State) (e : ErrCode) : (s.complete e).dstCap = s.dstCap := rfl
@[simp] theorem State.complete_outLen (s : State) (e : ErrCode) : (s.complete e).outLen = s.outLen := rfl
@[simp] theorem State.complete_padCount (s : State) (e : ErrCode) : (s.complete e).padCount = s.padCount := rfl
@[simp] theorem State.complete_tableLen (s : State) (e : ErrCode) : (s.complete e).tableLen = s.tableLen := rfl
@[simp] theorem State.complete_freq (s : State) (e : ErrCode) : (s.complete e).freq = s.freq := rfl
@[simp] theorem State.complete_code (s : State) (e : ErrCode) : (s.complete e).code = s.code := rfl
@[simp] theorem State.complete_mem (s : State) (e : ErrCode) : (s.complete e).mem = s.mem := rfl
@[simp] theorem State.complete_race (s : State) (e : ErrCode) : (s.complete e).race = s.race := rfl
@[simp] theorem State.complete_refused (s : State) (e : ErrCode) : (s.complete e).refused = s.refused := rfl
@[simp] theorem State.complete_draws (s : State) (e : ErrCode) : (s.complete e).draws = s.draws := rfl
@[simp] theorem State.complete_events (s : State) (e : ErrCode) : (s.complete e).events = s.events := rfl
@[simp] theorem State.complete_observed (s : State) (e : ErrCode) : (s.complete e).observed = s.observed := rfl

/-! ### `State.accept` -/

@[simp] theorem State.accept_latch (s : State) (v : Word) : (s.accept v).latch = ⟨opcodeField v, reservedField v != 0, s.srcAddr, s.srcLen, s.dstAddr, s.dstCap⟩ := rfl
@[simp] theorem State.accept_busy (s : State) (v : Word) : (s.accept v).busy = true := rfl
@[simp] theorem State.accept_done (s : State) (v : Word) : (s.accept v).done = false := rfl
@[simp] theorem State.accept_err (s : State) (v : Word) : (s.accept v).err = false := rfl
@[simp] theorem State.accept_ovr (s : State) (v : Word) : (s.accept v).ovr = false := rfl
@[simp] theorem State.accept_sat (s : State) (v : Word) : (s.accept v).sat = s.sat := rfl
@[simp] theorem State.accept_errCode (s : State) (v : Word) : (s.accept v).errCode = .ok := rfl
@[simp] theorem State.accept_irqEn (s : State) (v : Word) : (s.accept v).irqEn = s.irqEn := rfl
@[simp] theorem State.accept_irqStatus (s : State) (v : Word) : (s.accept v).irqStatus = s.irqStatus := rfl
@[simp] theorem State.accept_srcAddr (s : State) (v : Word) : (s.accept v).srcAddr = s.srcAddr := rfl
@[simp] theorem State.accept_srcLen (s : State) (v : Word) : (s.accept v).srcLen = s.srcLen := rfl
@[simp] theorem State.accept_dstAddr (s : State) (v : Word) : (s.accept v).dstAddr = s.dstAddr := rfl
@[simp] theorem State.accept_dstCap (s : State) (v : Word) : (s.accept v).dstCap = s.dstCap := rfl
@[simp] theorem State.accept_outLen (s : State) (v : Word) : (s.accept v).outLen = 0 := rfl
@[simp] theorem State.accept_padCount (s : State) (v : Word) : (s.accept v).padCount = 0 := rfl
@[simp] theorem State.accept_tableLen (s : State) (v : Word) : (s.accept v).tableLen = 0 := rfl
@[simp] theorem State.accept_freq (s : State) (v : Word) : (s.accept v).freq = s.freq := rfl
@[simp] theorem State.accept_code (s : State) (v : Word) : (s.accept v).code = s.code := rfl
@[simp] theorem State.accept_mem (s : State) (v : Word) : (s.accept v).mem = s.mem := rfl
@[simp] theorem State.accept_race (s : State) (v : Word) : (s.accept v).race = s.race := rfl
@[simp] theorem State.accept_refused (s : State) (v : Word) : (s.accept v).refused = s.refused := rfl
@[simp] theorem State.accept_draws (s : State) (v : Word) : (s.accept v).draws = s.draws := rfl
@[simp] theorem State.accept_events (s : State) (v : Word) : (s.accept v).events = s.events := rfl
@[simp] theorem State.accept_observed (s : State) (v : Word) : (s.accept v).observed = s.observed := rfl

/-! ### `State.spoilDst` -/

@[simp] theorem State.spoilDst_latch (s : State) : (s.spoilDst).latch = s.latch := rfl
@[simp] theorem State.spoilDst_busy (s : State) : (s.spoilDst).busy = s.busy := rfl
@[simp] theorem State.spoilDst_done (s : State) : (s.spoilDst).done = s.done := rfl
@[simp] theorem State.spoilDst_err (s : State) : (s.spoilDst).err = s.err := rfl
@[simp] theorem State.spoilDst_ovr (s : State) : (s.spoilDst).ovr = s.ovr := rfl
@[simp] theorem State.spoilDst_sat (s : State) : (s.spoilDst).sat = s.sat := rfl
@[simp] theorem State.spoilDst_errCode (s : State) : (s.spoilDst).errCode = s.errCode := rfl
@[simp] theorem State.spoilDst_irqEn (s : State) : (s.spoilDst).irqEn = s.irqEn := rfl
@[simp] theorem State.spoilDst_irqStatus (s : State) : (s.spoilDst).irqStatus = s.irqStatus := rfl
@[simp] theorem State.spoilDst_srcAddr (s : State) : (s.spoilDst).srcAddr = s.srcAddr := rfl
@[simp] theorem State.spoilDst_srcLen (s : State) : (s.spoilDst).srcLen = s.srcLen := rfl
@[simp] theorem State.spoilDst_dstAddr (s : State) : (s.spoilDst).dstAddr = s.dstAddr := rfl
@[simp] theorem State.spoilDst_dstCap (s : State) : (s.spoilDst).dstCap = s.dstCap := rfl
@[simp] theorem State.spoilDst_outLen (s : State) : (s.spoilDst).outLen = s.outLen := rfl
@[simp] theorem State.spoilDst_padCount (s : State) : (s.spoilDst).padCount = s.padCount := rfl
@[simp] theorem State.spoilDst_tableLen (s : State) : (s.spoilDst).tableLen = s.tableLen := rfl
@[simp] theorem State.spoilDst_freq (s : State) : (s.spoilDst).freq = s.freq := rfl
@[simp] theorem State.spoilDst_code (s : State) : (s.spoilDst).code = s.code := rfl
@[simp] theorem State.spoilDst_race (s : State) : (s.spoilDst).race = s.race := rfl
@[simp] theorem State.spoilDst_refused (s : State) : (s.spoilDst).refused = s.refused := rfl
@[simp] theorem State.spoilDst_draws (s : State) : (s.spoilDst).draws = s.draws + 1 := rfl
@[simp] theorem State.spoilDst_events (s : State) : (s.spoilDst).events = s.events := rfl
@[simp] theorem State.spoilDst_observed (s : State) : (s.spoilDst).observed = s.observed := rfl

/-! ### `State.deliver` -/

@[simp] theorem State.deliver_latch (s : State) (out : List Byte) : (s.deliver out).latch = s.latch := rfl
@[simp] theorem State.deliver_busy (s : State) (out : List Byte) : (s.deliver out).busy = s.busy := rfl
@[simp] theorem State.deliver_done (s : State) (out : List Byte) : (s.deliver out).done = s.done := rfl
@[simp] theorem State.deliver_err (s : State) (out : List Byte) : (s.deliver out).err = s.err := rfl
@[simp] theorem State.deliver_ovr (s : State) (out : List Byte) : (s.deliver out).ovr = s.ovr := rfl
@[simp] theorem State.deliver_sat (s : State) (out : List Byte) : (s.deliver out).sat = s.sat := rfl
@[simp] theorem State.deliver_errCode (s : State) (out : List Byte) : (s.deliver out).errCode = s.errCode := rfl
@[simp] theorem State.deliver_irqEn (s : State) (out : List Byte) : (s.deliver out).irqEn = s.irqEn := rfl
@[simp] theorem State.deliver_irqStatus (s : State) (out : List Byte) : (s.deliver out).irqStatus = s.irqStatus := rfl
@[simp] theorem State.deliver_srcAddr (s : State) (out : List Byte) : (s.deliver out).srcAddr = s.srcAddr := rfl
@[simp] theorem State.deliver_srcLen (s : State) (out : List Byte) : (s.deliver out).srcLen = s.srcLen := rfl
@[simp] theorem State.deliver_dstAddr (s : State) (out : List Byte) : (s.deliver out).dstAddr = s.dstAddr := rfl
@[simp] theorem State.deliver_dstCap (s : State) (out : List Byte) : (s.deliver out).dstCap = s.dstCap := rfl
@[simp] theorem State.deliver_outLen (s : State) (out : List Byte) : (s.deliver out).outLen = BitVec.ofNat 32 out.length := rfl
@[simp] theorem State.deliver_padCount (s : State) (out : List Byte) : (s.deliver out).padCount = s.padCount := rfl
@[simp] theorem State.deliver_tableLen (s : State) (out : List Byte) : (s.deliver out).tableLen = s.tableLen := rfl
@[simp] theorem State.deliver_freq (s : State) (out : List Byte) : (s.deliver out).freq = s.freq := rfl
@[simp] theorem State.deliver_code (s : State) (out : List Byte) : (s.deliver out).code = s.code := rfl
@[simp] theorem State.deliver_mem (s : State) (out : List Byte) : (s.deliver out).mem = Memory.writeBytes s.mem s.latch.dstAddr.toNat out := rfl
@[simp] theorem State.deliver_race (s : State) (out : List Byte) : (s.deliver out).race = s.race := rfl
@[simp] theorem State.deliver_refused (s : State) (out : List Byte) : (s.deliver out).refused = s.refused := rfl
@[simp] theorem State.deliver_draws (s : State) (out : List Byte) : (s.deliver out).draws = s.draws := rfl
@[simp] theorem State.deliver_events (s : State) (out : List Byte) : (s.deliver out).events = s.events := rfl
@[simp] theorem State.deliver_observed (s : State) (out : List Byte) : (s.deliver out).observed = s.observed := rfl

/-! ### `State.withHeader` -/

@[simp] theorem State.withHeader_latch (s : State) (p l : Word) : (s.withHeader p l).latch = s.latch := rfl
@[simp] theorem State.withHeader_busy (s : State) (p l : Word) : (s.withHeader p l).busy = s.busy := rfl
@[simp] theorem State.withHeader_done (s : State) (p l : Word) : (s.withHeader p l).done = s.done := rfl
@[simp] theorem State.withHeader_err (s : State) (p l : Word) : (s.withHeader p l).err = s.err := rfl
@[simp] theorem State.withHeader_ovr (s : State) (p l : Word) : (s.withHeader p l).ovr = s.ovr := rfl
@[simp] theorem State.withHeader_sat (s : State) (p l : Word) : (s.withHeader p l).sat = s.sat := rfl
@[simp] theorem State.withHeader_errCode (s : State) (p l : Word) : (s.withHeader p l).errCode = s.errCode := rfl
@[simp] theorem State.withHeader_irqEn (s : State) (p l : Word) : (s.withHeader p l).irqEn = s.irqEn := rfl
@[simp] theorem State.withHeader_irqStatus (s : State) (p l : Word) : (s.withHeader p l).irqStatus = s.irqStatus := rfl
@[simp] theorem State.withHeader_srcAddr (s : State) (p l : Word) : (s.withHeader p l).srcAddr = s.srcAddr := rfl
@[simp] theorem State.withHeader_srcLen (s : State) (p l : Word) : (s.withHeader p l).srcLen = s.srcLen := rfl
@[simp] theorem State.withHeader_dstAddr (s : State) (p l : Word) : (s.withHeader p l).dstAddr = s.dstAddr := rfl
@[simp] theorem State.withHeader_dstCap (s : State) (p l : Word) : (s.withHeader p l).dstCap = s.dstCap := rfl
@[simp] theorem State.withHeader_outLen (s : State) (p l : Word) : (s.withHeader p l).outLen = s.outLen := rfl
@[simp] theorem State.withHeader_padCount (s : State) (p l : Word) : (s.withHeader p l).padCount = p := rfl
@[simp] theorem State.withHeader_tableLen (s : State) (p l : Word) : (s.withHeader p l).tableLen = l := rfl
@[simp] theorem State.withHeader_freq (s : State) (p l : Word) : (s.withHeader p l).freq = s.freq := rfl
@[simp] theorem State.withHeader_code (s : State) (p l : Word) : (s.withHeader p l).code = s.code := rfl
@[simp] theorem State.withHeader_mem (s : State) (p l : Word) : (s.withHeader p l).mem = s.mem := rfl
@[simp] theorem State.withHeader_race (s : State) (p l : Word) : (s.withHeader p l).race = s.race := rfl
@[simp] theorem State.withHeader_refused (s : State) (p l : Word) : (s.withHeader p l).refused = s.refused := rfl
@[simp] theorem State.withHeader_draws (s : State) (p l : Word) : (s.withHeader p l).draws = s.draws := rfl
@[simp] theorem State.withHeader_events (s : State) (p l : Word) : (s.withHeader p l).events = s.events := rfl
@[simp] theorem State.withHeader_observed (s : State) (p l : Word) : (s.withHeader p l).observed = s.observed := rfl

/-! ### `State.withCode` -/

@[simp] theorem State.withCode_latch (s : State) (c : Table Code) : (s.withCode c).latch = s.latch := rfl
@[simp] theorem State.withCode_busy (s : State) (c : Table Code) : (s.withCode c).busy = s.busy := rfl
@[simp] theorem State.withCode_done (s : State) (c : Table Code) : (s.withCode c).done = s.done := rfl
@[simp] theorem State.withCode_err (s : State) (c : Table Code) : (s.withCode c).err = s.err := rfl
@[simp] theorem State.withCode_ovr (s : State) (c : Table Code) : (s.withCode c).ovr = s.ovr := rfl
@[simp] theorem State.withCode_sat (s : State) (c : Table Code) : (s.withCode c).sat = s.sat := rfl
@[simp] theorem State.withCode_errCode (s : State) (c : Table Code) : (s.withCode c).errCode = s.errCode := rfl
@[simp] theorem State.withCode_irqEn (s : State) (c : Table Code) : (s.withCode c).irqEn = s.irqEn := rfl
@[simp] theorem State.withCode_irqStatus (s : State) (c : Table Code) : (s.withCode c).irqStatus = s.irqStatus := rfl
@[simp] theorem State.withCode_srcAddr (s : State) (c : Table Code) : (s.withCode c).srcAddr = s.srcAddr := rfl
@[simp] theorem State.withCode_srcLen (s : State) (c : Table Code) : (s.withCode c).srcLen = s.srcLen := rfl
@[simp] theorem State.withCode_dstAddr (s : State) (c : Table Code) : (s.withCode c).dstAddr = s.dstAddr := rfl
@[simp] theorem State.withCode_dstCap (s : State) (c : Table Code) : (s.withCode c).dstCap = s.dstCap := rfl
@[simp] theorem State.withCode_outLen (s : State) (c : Table Code) : (s.withCode c).outLen = s.outLen := rfl
@[simp] theorem State.withCode_padCount (s : State) (c : Table Code) : (s.withCode c).padCount = s.padCount := rfl
@[simp] theorem State.withCode_tableLen (s : State) (c : Table Code) : (s.withCode c).tableLen = s.tableLen := rfl
@[simp] theorem State.withCode_freq (s : State) (c : Table Code) : (s.withCode c).freq = s.freq := rfl
@[simp] theorem State.withCode_code (s : State) (c : Table Code) : (s.withCode c).code = c := rfl
@[simp] theorem State.withCode_mem (s : State) (c : Table Code) : (s.withCode c).mem = s.mem := rfl
@[simp] theorem State.withCode_race (s : State) (c : Table Code) : (s.withCode c).race = s.race := rfl
@[simp] theorem State.withCode_refused (s : State) (c : Table Code) : (s.withCode c).refused = s.refused := rfl
@[simp] theorem State.withCode_draws (s : State) (c : Table Code) : (s.withCode c).draws = s.draws := rfl
@[simp] theorem State.withCode_events (s : State) (c : Table Code) : (s.withCode c).events = s.events := rfl
@[simp] theorem State.withCode_observed (s : State) (c : Table Code) : (s.withCode c).observed = s.observed := rfl

/-! ### `State.withFreq` -/

@[simp] theorem State.withFreq_latch (s : State) (f : Table Word) (b : Bool) : (s.withFreq f b).latch = s.latch := rfl
@[simp] theorem State.withFreq_busy (s : State) (f : Table Word) (b : Bool) : (s.withFreq f b).busy = s.busy := rfl
@[simp] theorem State.withFreq_done (s : State) (f : Table Word) (b : Bool) : (s.withFreq f b).done = s.done := rfl
@[simp] theorem State.withFreq_err (s : State) (f : Table Word) (b : Bool) : (s.withFreq f b).err = s.err := rfl
@[simp] theorem State.withFreq_ovr (s : State) (f : Table Word) (b : Bool) : (s.withFreq f b).ovr = s.ovr := rfl
@[simp] theorem State.withFreq_sat (s : State) (f : Table Word) (b : Bool) : (s.withFreq f b).sat = b := rfl
@[simp] theorem State.withFreq_errCode (s : State) (f : Table Word) (b : Bool) : (s.withFreq f b).errCode = s.errCode := rfl
@[simp] theorem State.withFreq_irqEn (s : State) (f : Table Word) (b : Bool) : (s.withFreq f b).irqEn = s.irqEn := rfl
@[simp] theorem State.withFreq_irqStatus (s : State) (f : Table Word) (b : Bool) : (s.withFreq f b).irqStatus = s.irqStatus := rfl
@[simp] theorem State.withFreq_srcAddr (s : State) (f : Table Word) (b : Bool) : (s.withFreq f b).srcAddr = s.srcAddr := rfl
@[simp] theorem State.withFreq_srcLen (s : State) (f : Table Word) (b : Bool) : (s.withFreq f b).srcLen = s.srcLen := rfl
@[simp] theorem State.withFreq_dstAddr (s : State) (f : Table Word) (b : Bool) : (s.withFreq f b).dstAddr = s.dstAddr := rfl
@[simp] theorem State.withFreq_dstCap (s : State) (f : Table Word) (b : Bool) : (s.withFreq f b).dstCap = s.dstCap := rfl
@[simp] theorem State.withFreq_outLen (s : State) (f : Table Word) (b : Bool) : (s.withFreq f b).outLen = s.outLen := rfl
@[simp] theorem State.withFreq_padCount (s : State) (f : Table Word) (b : Bool) : (s.withFreq f b).padCount = s.padCount := rfl
@[simp] theorem State.withFreq_tableLen (s : State) (f : Table Word) (b : Bool) : (s.withFreq f b).tableLen = s.tableLen := rfl
@[simp] theorem State.withFreq_freq (s : State) (f : Table Word) (b : Bool) : (s.withFreq f b).freq = f := rfl
@[simp] theorem State.withFreq_code (s : State) (f : Table Word) (b : Bool) : (s.withFreq f b).code = s.code := rfl
@[simp] theorem State.withFreq_mem (s : State) (f : Table Word) (b : Bool) : (s.withFreq f b).mem = s.mem := rfl
@[simp] theorem State.withFreq_race (s : State) (f : Table Word) (b : Bool) : (s.withFreq f b).race = s.race := rfl
@[simp] theorem State.withFreq_refused (s : State) (f : Table Word) (b : Bool) : (s.withFreq f b).refused = s.refused := rfl
@[simp] theorem State.withFreq_draws (s : State) (f : Table Word) (b : Bool) : (s.withFreq f b).draws = s.draws := rfl
@[simp] theorem State.withFreq_events (s : State) (f : Table Word) (b : Bool) : (s.withFreq f b).events = s.events := rfl
@[simp] theorem State.withFreq_observed (s : State) (f : Table Word) (b : Bool) : (s.withFreq f b).observed = s.observed := rfl

/-! ### `State.observe` -/

@[simp] theorem State.observe_latch (s : State) (o : Observation) : (s.observe o).latch = s.latch := rfl
@[simp] theorem State.observe_busy (s : State) (o : Observation) : (s.observe o).busy = s.busy := rfl
@[simp] theorem State.observe_done (s : State) (o : Observation) : (s.observe o).done = s.done := rfl
@[simp] theorem State.observe_err (s : State) (o : Observation) : (s.observe o).err = s.err := rfl
@[simp] theorem State.observe_ovr (s : State) (o : Observation) : (s.observe o).ovr = s.ovr := rfl
@[simp] theorem State.observe_sat (s : State) (o : Observation) : (s.observe o).sat = s.sat := rfl
@[simp] theorem State.observe_errCode (s : State) (o : Observation) : (s.observe o).errCode = s.errCode := rfl
@[simp] theorem State.observe_irqEn (s : State) (o : Observation) : (s.observe o).irqEn = s.irqEn := rfl
@[simp] theorem State.observe_irqStatus (s : State) (o : Observation) : (s.observe o).irqStatus = s.irqStatus := rfl
@[simp] theorem State.observe_srcAddr (s : State) (o : Observation) : (s.observe o).srcAddr = s.srcAddr := rfl
@[simp] theorem State.observe_srcLen (s : State) (o : Observation) : (s.observe o).srcLen = s.srcLen := rfl
@[simp] theorem State.observe_dstAddr (s : State) (o : Observation) : (s.observe o).dstAddr = s.dstAddr := rfl
@[simp] theorem State.observe_dstCap (s : State) (o : Observation) : (s.observe o).dstCap = s.dstCap := rfl
@[simp] theorem State.observe_outLen (s : State) (o : Observation) : (s.observe o).outLen = s.outLen := rfl
@[simp] theorem State.observe_padCount (s : State) (o : Observation) : (s.observe o).padCount = s.padCount := rfl
@[simp] theorem State.observe_tableLen (s : State) (o : Observation) : (s.observe o).tableLen = s.tableLen := rfl
@[simp] theorem State.observe_freq (s : State) (o : Observation) : (s.observe o).freq = s.freq := rfl
@[simp] theorem State.observe_code (s : State) (o : Observation) : (s.observe o).code = s.code := rfl
@[simp] theorem State.observe_mem (s : State) (o : Observation) : (s.observe o).mem = s.mem := rfl
@[simp] theorem State.observe_race (s : State) (o : Observation) : (s.observe o).race = s.race := rfl
@[simp] theorem State.observe_refused (s : State) (o : Observation) : (s.observe o).refused = s.refused := rfl
@[simp] theorem State.observe_draws (s : State) (o : Observation) : (s.observe o).draws = s.draws := rfl
@[simp] theorem State.observe_events (s : State) (o : Observation) : (s.observe o).events = s.events := rfl
@[simp] theorem State.observe_observed (s : State) (o : Observation) : (s.observe o).observed = o :: s.observed := rfl

/-! ### `State.drawn` -/

@[simp] theorem State.drawn_latch (s : State) : (s.drawn).latch = s.latch := rfl
@[simp] theorem State.drawn_busy (s : State) : (s.drawn).busy = s.busy := rfl
@[simp] theorem State.drawn_done (s : State) : (s.drawn).done = s.done := rfl
@[simp] theorem State.drawn_err (s : State) : (s.drawn).err = s.err := rfl
@[simp] theorem State.drawn_ovr (s : State) : (s.drawn).ovr = s.ovr := rfl
@[simp] theorem State.drawn_sat (s : State) : (s.drawn).sat = s.sat := rfl
@[simp] theorem State.drawn_errCode (s : State) : (s.drawn).errCode = s.errCode := rfl
@[simp] theorem State.drawn_irqEn (s : State) : (s.drawn).irqEn = s.irqEn := rfl
@[simp] theorem State.drawn_irqStatus (s : State) : (s.drawn).irqStatus = s.irqStatus := rfl
@[simp] theorem State.drawn_srcAddr (s : State) : (s.drawn).srcAddr = s.srcAddr := rfl
@[simp] theorem State.drawn_srcLen (s : State) : (s.drawn).srcLen = s.srcLen := rfl
@[simp] theorem State.drawn_dstAddr (s : State) : (s.drawn).dstAddr = s.dstAddr := rfl
@[simp] theorem State.drawn_dstCap (s : State) : (s.drawn).dstCap = s.dstCap := rfl
@[simp] theorem State.drawn_outLen (s : State) : (s.drawn).outLen = s.outLen := rfl
@[simp] theorem State.drawn_padCount (s : State) : (s.drawn).padCount = s.padCount := rfl
@[simp] theorem State.drawn_tableLen (s : State) : (s.drawn).tableLen = s.tableLen := rfl
@[simp] theorem State.drawn_freq (s : State) : (s.drawn).freq = s.freq := rfl
@[simp] theorem State.drawn_code (s : State) : (s.drawn).code = s.code := rfl
@[simp] theorem State.drawn_mem (s : State) : (s.drawn).mem = s.mem := rfl
@[simp] theorem State.drawn_race (s : State) : (s.drawn).race = s.race := rfl
@[simp] theorem State.drawn_refused (s : State) : (s.drawn).refused = s.refused := rfl
@[simp] theorem State.drawn_draws (s : State) : (s.drawn).draws = s.draws + 1 := rfl
@[simp] theorem State.drawn_events (s : State) : (s.drawn).events = s.events := rfl
@[simp] theorem State.drawn_observed (s : State) : (s.drawn).observed = s.observed := rfl

/-! ### `State.rest` -/

@[simp] theorem State.rest_latch (s : State) (es : List Event) : (s.rest es).latch = s.latch := rfl
@[simp] theorem State.rest_busy (s : State) (es : List Event) : (s.rest es).busy = s.busy := rfl
@[simp] theorem State.rest_done (s : State) (es : List Event) : (s.rest es).done = s.done := rfl
@[simp] theorem State.rest_err (s : State) (es : List Event) : (s.rest es).err = s.err := rfl
@[simp] theorem State.rest_ovr (s : State) (es : List Event) : (s.rest es).ovr = s.ovr := rfl
@[simp] theorem State.rest_sat (s : State) (es : List Event) : (s.rest es).sat = s.sat := rfl
@[simp] theorem State.rest_errCode (s : State) (es : List Event) : (s.rest es).errCode = s.errCode := rfl
@[simp] theorem State.rest_irqEn (s : State) (es : List Event) : (s.rest es).irqEn = s.irqEn := rfl
@[simp] theorem State.rest_irqStatus (s : State) (es : List Event) : (s.rest es).irqStatus = s.irqStatus := rfl
@[simp] theorem State.rest_srcAddr (s : State) (es : List Event) : (s.rest es).srcAddr = s.srcAddr := rfl
@[simp] theorem State.rest_srcLen (s : State) (es : List Event) : (s.rest es).srcLen = s.srcLen := rfl
@[simp] theorem State.rest_dstAddr (s : State) (es : List Event) : (s.rest es).dstAddr = s.dstAddr := rfl
@[simp] theorem State.rest_dstCap (s : State) (es : List Event) : (s.rest es).dstCap = s.dstCap := rfl
@[simp] theorem State.rest_outLen (s : State) (es : List Event) : (s.rest es).outLen = s.outLen := rfl
@[simp] theorem State.rest_padCount (s : State) (es : List Event) : (s.rest es).padCount = s.padCount := rfl
@[simp] theorem State.rest_tableLen (s : State) (es : List Event) : (s.rest es).tableLen = s.tableLen := rfl
@[simp] theorem State.rest_freq (s : State) (es : List Event) : (s.rest es).freq = s.freq := rfl
@[simp] theorem State.rest_code (s : State) (es : List Event) : (s.rest es).code = s.code := rfl
@[simp] theorem State.rest_mem (s : State) (es : List Event) : (s.rest es).mem = s.mem := rfl
@[simp] theorem State.rest_race (s : State) (es : List Event) : (s.rest es).race = s.race := rfl
@[simp] theorem State.rest_refused (s : State) (es : List Event) : (s.rest es).refused = s.refused := rfl
@[simp] theorem State.rest_draws (s : State) (es : List Event) : (s.rest es).draws = s.draws := rfl
@[simp] theorem State.rest_events (s : State) (es : List Event) : (s.rest es).events = es := rfl
@[simp] theorem State.rest_observed (s : State) (es : List Event) : (s.rest es).observed = s.observed := rfl

/-! ### `State.clearIrq` -/

@[simp] theorem State.clearIrq_latch (s : State) (v : Word) : (s.clearIrq v).latch = s.latch := rfl
@[simp] theorem State.clearIrq_busy (s : State) (v : Word) : (s.clearIrq v).busy = s.busy := rfl
@[simp] theorem State.clearIrq_done (s : State) (v : Word) : (s.clearIrq v).done = s.done := rfl
@[simp] theorem State.clearIrq_err (s : State) (v : Word) : (s.clearIrq v).err = s.err := rfl
@[simp] theorem State.clearIrq_ovr (s : State) (v : Word) : (s.clearIrq v).ovr = s.ovr := rfl
@[simp] theorem State.clearIrq_sat (s : State) (v : Word) : (s.clearIrq v).sat = s.sat := rfl
@[simp] theorem State.clearIrq_errCode (s : State) (v : Word) : (s.clearIrq v).errCode = s.errCode := rfl
@[simp] theorem State.clearIrq_irqEn (s : State) (v : Word) : (s.clearIrq v).irqEn = s.irqEn := rfl
@[simp] theorem State.clearIrq_irqStatus (s : State) (v : Word) : (s.clearIrq v).irqStatus = irqCleared s.irqStatus v := rfl
@[simp] theorem State.clearIrq_srcAddr (s : State) (v : Word) : (s.clearIrq v).srcAddr = s.srcAddr := rfl
@[simp] theorem State.clearIrq_srcLen (s : State) (v : Word) : (s.clearIrq v).srcLen = s.srcLen := rfl
@[simp] theorem State.clearIrq_dstAddr (s : State) (v : Word) : (s.clearIrq v).dstAddr = s.dstAddr := rfl
@[simp] theorem State.clearIrq_dstCap (s : State) (v : Word) : (s.clearIrq v).dstCap = s.dstCap := rfl
@[simp] theorem State.clearIrq_outLen (s : State) (v : Word) : (s.clearIrq v).outLen = s.outLen := rfl
@[simp] theorem State.clearIrq_padCount (s : State) (v : Word) : (s.clearIrq v).padCount = s.padCount := rfl
@[simp] theorem State.clearIrq_tableLen (s : State) (v : Word) : (s.clearIrq v).tableLen = s.tableLen := rfl
@[simp] theorem State.clearIrq_freq (s : State) (v : Word) : (s.clearIrq v).freq = s.freq := rfl
@[simp] theorem State.clearIrq_code (s : State) (v : Word) : (s.clearIrq v).code = s.code := rfl
@[simp] theorem State.clearIrq_mem (s : State) (v : Word) : (s.clearIrq v).mem = s.mem := rfl
@[simp] theorem State.clearIrq_race (s : State) (v : Word) : (s.clearIrq v).race = s.race := rfl
@[simp] theorem State.clearIrq_refused (s : State) (v : Word) : (s.clearIrq v).refused = s.refused := rfl
@[simp] theorem State.clearIrq_draws (s : State) (v : Word) : (s.clearIrq v).draws = s.draws := rfl
@[simp] theorem State.clearIrq_events (s : State) (v : Word) : (s.clearIrq v).events = s.events := rfl
@[simp] theorem State.clearIrq_observed (s : State) (v : Word) : (s.clearIrq v).observed = s.observed := rfl

/-! ### `State.hostMemWrite` -/

@[simp] theorem State.hostMemWrite_latch (s : State) (a : Word) (b : Byte) : (s.hostMemWrite a b).latch = s.latch := rfl
@[simp] theorem State.hostMemWrite_busy (s : State) (a : Word) (b : Byte) : (s.hostMemWrite a b).busy = s.busy := rfl
@[simp] theorem State.hostMemWrite_done (s : State) (a : Word) (b : Byte) : (s.hostMemWrite a b).done = s.done := rfl
@[simp] theorem State.hostMemWrite_err (s : State) (a : Word) (b : Byte) : (s.hostMemWrite a b).err = s.err := rfl
@[simp] theorem State.hostMemWrite_ovr (s : State) (a : Word) (b : Byte) : (s.hostMemWrite a b).ovr = s.ovr := rfl
@[simp] theorem State.hostMemWrite_sat (s : State) (a : Word) (b : Byte) : (s.hostMemWrite a b).sat = s.sat := rfl
@[simp] theorem State.hostMemWrite_errCode (s : State) (a : Word) (b : Byte) : (s.hostMemWrite a b).errCode = s.errCode := rfl
@[simp] theorem State.hostMemWrite_irqEn (s : State) (a : Word) (b : Byte) : (s.hostMemWrite a b).irqEn = s.irqEn := rfl
@[simp] theorem State.hostMemWrite_irqStatus (s : State) (a : Word) (b : Byte) : (s.hostMemWrite a b).irqStatus = s.irqStatus := rfl
@[simp] theorem State.hostMemWrite_srcAddr (s : State) (a : Word) (b : Byte) : (s.hostMemWrite a b).srcAddr = s.srcAddr := rfl
@[simp] theorem State.hostMemWrite_srcLen (s : State) (a : Word) (b : Byte) : (s.hostMemWrite a b).srcLen = s.srcLen := rfl
@[simp] theorem State.hostMemWrite_dstAddr (s : State) (a : Word) (b : Byte) : (s.hostMemWrite a b).dstAddr = s.dstAddr := rfl
@[simp] theorem State.hostMemWrite_dstCap (s : State) (a : Word) (b : Byte) : (s.hostMemWrite a b).dstCap = s.dstCap := rfl
@[simp] theorem State.hostMemWrite_outLen (s : State) (a : Word) (b : Byte) : (s.hostMemWrite a b).outLen = s.outLen := rfl
@[simp] theorem State.hostMemWrite_padCount (s : State) (a : Word) (b : Byte) : (s.hostMemWrite a b).padCount = s.padCount := rfl
@[simp] theorem State.hostMemWrite_tableLen (s : State) (a : Word) (b : Byte) : (s.hostMemWrite a b).tableLen = s.tableLen := rfl
@[simp] theorem State.hostMemWrite_freq (s : State) (a : Word) (b : Byte) : (s.hostMemWrite a b).freq = s.freq := rfl
@[simp] theorem State.hostMemWrite_code (s : State) (a : Word) (b : Byte) : (s.hostMemWrite a b).code = s.code := rfl
@[simp] theorem State.hostMemWrite_mem (s : State) (a : Word) (b : Byte) : (s.hostMemWrite a b).mem = Memory.write s.mem a.toNat b := rfl
@[simp] theorem State.hostMemWrite_race (s : State) (a : Word) (b : Byte) : (s.hostMemWrite a b).race = (s.race || (s.busy && (s.latch.inSource a.toNat || s.latch.inDest a.toNat))) := rfl
@[simp] theorem State.hostMemWrite_refused (s : State) (a : Word) (b : Byte) : (s.hostMemWrite a b).refused = s.refused := rfl
@[simp] theorem State.hostMemWrite_draws (s : State) (a : Word) (b : Byte) : (s.hostMemWrite a b).draws = s.draws := rfl
@[simp] theorem State.hostMemWrite_events (s : State) (a : Word) (b : Byte) : (s.hostMemWrite a b).events = s.events := rfl
@[simp] theorem State.hostMemWrite_observed (s : State) (a : Word) (b : Byte) : (s.hostMemWrite a b).observed = s.observed := rfl

/-! ### `State.resetBlock` -/

@[simp] theorem State.resetBlock_latch (s : State) : (s.resetBlock).latch = ⟨0, false, 0, 0, 0, 0⟩ := rfl
@[simp] theorem State.resetBlock_busy (s : State) : (s.resetBlock).busy = false := rfl
@[simp] theorem State.resetBlock_done (s : State) : (s.resetBlock).done = false := rfl
@[simp] theorem State.resetBlock_err (s : State) : (s.resetBlock).err = false := rfl
@[simp] theorem State.resetBlock_ovr (s : State) : (s.resetBlock).ovr = false := rfl
@[simp] theorem State.resetBlock_sat (s : State) : (s.resetBlock).sat = false := rfl
@[simp] theorem State.resetBlock_errCode (s : State) : (s.resetBlock).errCode = .ok := rfl
@[simp] theorem State.resetBlock_irqEn (s : State) : (s.resetBlock).irqEn = 0 := rfl
@[simp] theorem State.resetBlock_irqStatus (s : State) : (s.resetBlock).irqStatus = 0 := rfl
@[simp] theorem State.resetBlock_srcAddr (s : State) : (s.resetBlock).srcAddr = 0 := rfl
@[simp] theorem State.resetBlock_srcLen (s : State) : (s.resetBlock).srcLen = 0 := rfl
@[simp] theorem State.resetBlock_dstAddr (s : State) : (s.resetBlock).dstAddr = 0 := rfl
@[simp] theorem State.resetBlock_dstCap (s : State) : (s.resetBlock).dstCap = 0 := rfl
@[simp] theorem State.resetBlock_outLen (s : State) : (s.resetBlock).outLen = 0 := rfl
@[simp] theorem State.resetBlock_padCount (s : State) : (s.resetBlock).padCount = 0 := rfl
@[simp] theorem State.resetBlock_tableLen (s : State) : (s.resetBlock).tableLen = 0 := rfl
@[simp] theorem State.resetBlock_freq (s : State) : (s.resetBlock).freq = Table.fill 0 := rfl
@[simp] theorem State.resetBlock_code (s : State) : (s.resetBlock).code = Table.fill [] := rfl
@[simp] theorem State.resetBlock_mem (s : State) : (s.resetBlock).mem = s.aborted.mem := rfl
@[simp] theorem State.resetBlock_race (s : State) : (s.resetBlock).race = s.race := rfl
@[simp] theorem State.resetBlock_refused (s : State) : (s.resetBlock).refused = s.refused := rfl
@[simp] theorem State.resetBlock_draws (s : State) : (s.resetBlock).draws = s.aborted.draws := rfl
@[simp] theorem State.resetBlock_events (s : State) : (s.resetBlock).events = s.events := rfl
@[simp] theorem State.resetBlock_observed (s : State) : (s.resetBlock).observed = s.observed := rfl

/-! ### `State.readAny` -/

/-- An any-value read adds its observation and draws one free value; nothing else changes. -/
theorem State.readAny_eq (s : State) (off : Nat) :
    s.readAny off = { s with
      observed := .reg off (some (Config.freeWord s.draws)) :: s.observed
      draws := s.draws + 1 } := rfl

end Sys2Proof.Machine
end

