-- ==== Sys2Proof/Laws/Memory.lean ====
section
/-! SUPPORT. Data memory: a write is read back and leaves every other byte, and every operation keeps the canonical
form. -/

namespace Sys2Proof.Machine

theorem Memory.read_erase (m : Memory) (a x : Nat) :
    Memory.read (Memory.erase m a) x = if x = a then Memory.unlisted else Memory.read m x := by
  induction m with
  | nil => simp [Memory.erase, Memory.read]
  | cons c rest ih =>
    simp only [Memory.erase] at ih ⊢
    by_cases h : c.1 = a
    · rw [List.filter_cons_of_neg (by simp [h]), ih]
      by_cases hx : x = a
      · simp [hx]
      · have : ¬ c.1 = x := fun e => hx (e ▸ h)
        simp [hx, Memory.read, this]
    · rw [List.filter_cons_of_pos (by simpa using h)]
      by_cases hc : c.1 = x
      · have : ¬ x = a := fun e => h (hc.trans e)
        simp [Memory.read, hc, this]
      · simp only [Memory.read, hc, if_false, ih]

theorem Memory.read_insert (m : Memory) (a x : Nat) (v : Byte) :
    Memory.read (Memory.insert m a v) x = if x = a then v else Memory.read m x := by
  induction m with
  | nil => simp [Memory.insert, Memory.read, eq_comm]
  | cons c rest ih =>
    simp only [Memory.insert]
    split
    · by_cases hx : x = a
      · simp [hx, Memory.read]
      · have : ¬ a = x := fun e => hx e.symm
        simp [hx, this, Memory.read]
    · split
      · rename_i _ h
        by_cases hx : x = a
        · simp [hx, Memory.read]
        · have h1 : ¬ a = x := fun e => hx e.symm
          have h2 : ¬ c.1 = x := fun e => h1 (h.trans e)
          simp [hx, h1, h2, Memory.read]
      · rename_i _ h
        by_cases hc : c.1 = x
        · have : ¬ x = a := fun e => h (e.symm.trans hc.symm)
          simp [Memory.read, hc, this]
        · simp only [Memory.read, hc, if_false, ih]

/-- MemRead after MemWrite: the byte written there, every other byte as before. -/
theorem Memory.read_write (m : Memory) (a x : Nat) (v : Byte) :
    Memory.read (Memory.write m a v) x = if x = a then v else Memory.read m x := by
  unfold Memory.write
  split
  · rename_i h
    rw [Memory.read_erase, h]
  · exact Memory.read_insert m a x v

/-- A block write is read back byte by byte, and every byte outside the block is as before. -/
theorem Memory.read_writeBytes (bs : List Byte) (m : Memory) (a x : Nat) :
    Memory.read (Memory.writeBytes m a bs) x =
      if h : a ≤ x ∧ x < a + bs.length then bs[x - a]'(by omega) else Memory.read m x := by
  induction bs generalizing m a with
  | nil => simp [Memory.writeBytes, show ¬ (a ≤ x ∧ x < a) by omega]
  | cons b rest ih =>
    rw [Memory.writeBytes, ih, Memory.read_write]
    by_cases h1 : a + 1 ≤ x ∧ x < a + 1 + rest.length
    · have h2 : a ≤ x ∧ x < a + (b :: rest).length := by simp; omega
      have h3 : x - a = (x - (a + 1)) + 1 := by omega
      simp only [h1, h2, dif_pos, and_self, h3, List.getElem_cons_succ]
    · by_cases hx : x = a
      · subst hx
        simp
      · have h2 : ¬ (a ≤ x ∧ x < a + (b :: rest).length) := by simp; omega
        rw [dif_neg h1, dif_neg h2, if_neg hx]

theorem Memory.read_writeBytes_outside (bs : List Byte) (m : Memory) (a x : Nat)
    (h : ¬ (a ≤ x ∧ x < a + bs.length)) : Memory.read (Memory.writeBytes m a bs) x = Memory.read m x := by
  rw [Memory.read_writeBytes, dif_neg h]

theorem Memory.readBytes_length (m : Memory) (a n : Nat) : (Memory.readBytes m a n).length = n := by
  simp [Memory.readBytes]

theorem Memory.readBytes_congr {m m' : Memory} {a n : Nat}
    (h : ∀ x, a ≤ x → x < a + n → Memory.read m x = Memory.read m' x) :
    Memory.readBytes m a n = Memory.readBytes m' a n := by
  simp only [Memory.readBytes, List.map_inj_left, List.mem_range]
  intro i hi
  exact h (a + i) (by omega) (by omega)

/-- A block just written reads back whole. -/
theorem Memory.readBytes_writeBytes (m : Memory) (a : Nat) (bs : List Byte) :
    Memory.readBytes (Memory.writeBytes m a bs) a bs.length = bs := by
  apply List.ext_getElem
  · simp [Memory.readBytes]
  · intro i h1 h2
    simp [Memory.readBytes, Memory.read_writeBytes, h2]

/-- The canonical form, as two plain conditions. -/
theorem Memory.wf_iff (m : Memory) :
    Memory.wf m = true ↔
      (∀ c ∈ m, c.1 < Config.memSize ∧ c.2 ≠ Memory.unlisted) ∧ m.Pairwise (fun c d => c.1 < d.1) := by
  induction m with
  | nil => simp [Memory.wf]
  | cons c rest ih =>
    cases rest with
    | nil => simp [Memory.wf]
    | cons d rest =>
      rw [Memory.wf, Bool.and_eq_true, Bool.and_eq_true, Bool.and_eq_true, ih]
      simp only [decide_eq_true_eq, bne_iff_ne, List.pairwise_cons, List.mem_cons, forall_eq_or_imp]
      constructor
      · rintro ⟨⟨⟨h1, h2⟩, h3⟩, ⟨h4, h5⟩, h6, h7⟩
        exact ⟨⟨⟨h1, h2⟩, h4, h5⟩, ⟨h3, fun e he => lt_trans h3 (h6 e he)⟩, h6, h7⟩
      · rintro ⟨⟨⟨h1, h2⟩, h4, h5⟩, ⟨h3, _⟩, h6, h7⟩
        exact ⟨⟨⟨h1, h2⟩, h3⟩, ⟨h4, h5⟩, h6, h7⟩

theorem Memory.wf_erase {m : Memory} (h : Memory.wf m = true) (a : Nat) : Memory.wf (Memory.erase m a) = true := by
  rw [Memory.wf_iff] at h ⊢
  exact ⟨fun c hc => h.1 c (List.mem_filter.mp hc).1, h.2.filter _⟩

theorem Memory.mem_insert {m : Memory} {a : Nat} {v : Byte} {c : Host.Cell} (h : c ∈ Memory.insert m a v) :
    c = (a, v) ∨ c ∈ m := by
  induction m with
  | nil => simpa [Memory.insert] using h
  | cons d rest ih =>
    simp only [Memory.insert] at h
    split at h
    · simpa using h
    · split at h
      · rcases List.mem_cons.mp h with h | h
        · exact .inl h
        · exact .inr (List.mem_cons_of_mem _ h)
      · rcases List.mem_cons.mp h with h | h
        · exact .inr (h ▸ List.mem_cons_self)
        · exact (ih h).imp id (List.mem_cons_of_mem _)

theorem Memory.wf_insert {m : Memory} (h : Memory.wf m = true) {a : Nat} (ha : a < Config.memSize) {v : Byte}
    (hv : v ≠ Memory.unlisted) : Memory.wf (Memory.insert m a v) = true := by
  rw [Memory.wf_iff] at h ⊢
  refine ⟨fun c hc => (Memory.mem_insert hc).elim (fun e => e ▸ ⟨ha, hv⟩) (h.1 c), ?_⟩
  have hp := h.2
  clear h
  induction m with
  | nil => simp [Memory.insert]
  | cons d rest ih =>
    obtain ⟨hd, hr⟩ := List.pairwise_cons.mp hp
    simp only [Memory.insert]
    split
    · rename_i hlt
      exact List.pairwise_cons.mpr
        ⟨fun e he => (List.mem_cons.mp he).elim (fun x => x ▸ hlt) (fun x => lt_trans hlt (hd e x)), hp⟩
    · split
      · rename_i heq
        exact List.pairwise_cons.mpr ⟨fun e he => lt_of_eq_of_lt heq (hd e he), hr⟩
      · refine List.pairwise_cons.mpr ⟨fun e he => ?_, ih hr⟩
        rcases Memory.mem_insert he with rfl | he
        · show d.1 < a
          omega
        · exact hd e he

/-- MemWrite keeps the canonical form. -/
theorem Memory.wf_write {m : Memory} (h : Memory.wf m = true) {a : Nat} (ha : a < Config.memSize) (v : Byte) :
    Memory.wf (Memory.write m a v) = true := by
  unfold Memory.write
  split
  · exact Memory.wf_erase h a
  · exact Memory.wf_insert h ha ‹_›

/-- A block write inside the address space keeps the canonical form. -/
theorem Memory.wf_writeBytes (bs : List Byte) {m : Memory} (h : Memory.wf m = true) {a : Nat}
    (ha : a + bs.length ≤ Config.memSize) : Memory.wf (Memory.writeBytes m a bs) = true := by
  induction bs generalizing m a with
  | nil => exact h
  | cons b rest ih =>
    simp only [List.length_cons] at ha
    exact ih (Memory.wf_write h (by omega) b) (by omega)

/-- Memories in canonical form that read alike everywhere are the same data. -/
theorem Memory.ext_of_wf {m m' : Memory} (h : Memory.wf m = true) (h' : Memory.wf m' = true)
    (hr : ∀ a, Memory.read m a = Memory.read m' a) : m = m' := by
  rw [Memory.wf_iff] at h h'
  induction m generalizing m' with
  | nil =>
    cases m' with
    | nil => rfl
    | cons d r =>
      have := hr d.1
      simp only [Memory.read, if_true] at this
      exact absurd this.symm (h'.1 d List.mem_cons_self).2
  | cons c rest ih =>
    have low : ∀ {l : Memory} {d : Host.Cell}, (∀ e ∈ l, d.1 < e.1) → ∀ a ≤ d.1, Memory.read l a = Memory.unlisted := by
      intro l d hl a ha
      induction l with
      | nil => rfl
      | cons e r ihl =>
        have := hl e List.mem_cons_self
        rw [Memory.read, if_neg (by omega)]
        exact ihl (fun x hx => hl x (List.mem_cons_of_mem _ hx))
    cases m' with
    | nil =>
      have := hr c.1
      simp only [Memory.read, if_true] at this
      exact absurd this (h.1 c List.mem_cons_self).2
    | cons d r =>
      obtain ⟨hc, hrest⟩ := List.pairwise_cons.mp h.2
      obtain ⟨hd, hr'⟩ := List.pairwise_cons.mp h'.2
      have key : c.1 = d.1 := by
        rcases Nat.lt_trichotomy c.1 d.1 with hlt | heq | hgt
        · have e := hr c.1
          rw [Memory.read, if_pos rfl, Memory.read, if_neg (by omega), low hd c.1 (by omega)] at e
          exact absurd e (h.1 c List.mem_cons_self).2
        · exact heq
        · have e := hr d.1
          rw [Memory.read, if_neg (by omega), low hc d.1 (by omega), Memory.read, if_pos rfl] at e
          exact absurd e.symm (h'.1 d List.mem_cons_self).2
      have hv : c = d := by
        have e := hr c.1
        rw [Memory.read, if_pos rfl, Memory.read, if_pos key.symm] at e
        exact Prod.ext key e
      subst hv
      congr 1
      refine ih ⟨fun x hx => h.1 x (List.mem_cons_of_mem _ hx), hrest⟩
        ⟨fun x hx => h'.1 x (List.mem_cons_of_mem _ hx), hr'⟩ (fun a => ?_)
      by_cases ha : a = c.1
      · rw [low hc a (le_of_eq ha), low hd a (le_of_eq ha)]
      · have e := hr a
        rwa [Memory.read, if_neg (Ne.symm ha), Memory.read, if_neg (Ne.symm ha)] at e

/-- What `spoilDst` leaves: any bytes inside the latched destination region, every other byte as before. -/
theorem State.spoilDst_read_outside (s : State) (a : Nat) (h : s.latch.inDest a = false) :
    Memory.read s.spoilDst.mem a = Memory.read s.mem a := by
  apply Memory.read_writeBytes_outside
  simpa [Latch.inDest] using h

theorem State.spoilDst_wf (s : State) (h : Memory.wf s.mem = true) (hd : inRange s.latch.dstAddr s.latch.dstCap = true) :
    Memory.wf s.spoilDst.mem = true := by
  apply Memory.wf_writeBytes _ h
  simpa [inRange] using hd

/-- `deliver` of a block that fits the latched destination region keeps the canonical form. -/
theorem State.deliver_wf (s : State) (out : List Byte) (h : Memory.wf s.mem = true)
    (hd : inRange s.latch.dstAddr s.latch.dstCap = true) (hf : out.length ≤ s.latch.dstCap.toNat) :
    Memory.wf (s.deliver out).mem = true := by
  apply Memory.wf_writeBytes _ h
  have : s.latch.dstAddr.toNat + s.latch.dstCap.toNat ≤ Config.memSize := by simpa [inRange] using hd
  omega

/-- `deliver` changes no byte outside the bytes it writes. -/
theorem State.deliver_read_outside (s : State) (out : List Byte) (a : Nat)
    (h : ¬ (s.latch.dstAddr.toNat ≤ a ∧ a < s.latch.dstAddr.toNat + out.length)) :
    Memory.read (s.deliver out).mem a = Memory.read s.mem a := by
  simpa using Memory.read_writeBytes_outside out s.mem s.latch.dstAddr.toNat a h

end Sys2Proof.Machine
end

