-- ==== Sys2Proof/Laws/Table.lean ====
section
/-! SUPPORT. The 256-entry files FREQ and CODE: reading what was put there. -/

namespace Sys2Proof.Machine

theorem symbols_length : symbols.length = 256 := by simp [symbols, Config.alphabet]

theorem symbols_getElem (n : Nat) (h : n < symbols.length) : symbols[n] = BitVec.ofNat 8 n := by
  simp [symbols]

theorem mem_symbols (x : Byte) : x ∈ symbols := by
  have h : x.toNat < symbols.length := by rw [symbols_length]; exact x.isLt
  have e : symbols[x.toNat] = x := by rw [symbols_getElem]; simp
  exact e ▸ List.getElem_mem h

/-- An entry read by the symbol's number. -/
theorem Table.get_eq_getElem {α : Type} (t : Table α) (x : Byte) :
    t.get x = t.entries[x.toNat]'(by rw [t.size]; exact x.isLt) := by
  simp [Table.get, List.head_drop]

@[simp] theorem Table.get_ofFn {α : Type} (f : Byte → α) (x : Byte) : (Table.ofFn f).get x = f x := by
  simp [Table.get_eq_getElem, Table.ofFn, symbols]

@[simp] theorem Table.get_fill {α : Type} (a : α) (x : Byte) : (Table.fill a).get x = a := by
  rw [Table.get_eq_getElem]
  exact List.getElem_replicate ..

@[simp] theorem Table.get_set_self {α : Type} (t : Table α) (x : Byte) (a : α) : (t.set x a).get x = a := by
  simp [Table.get_eq_getElem, Table.set]

theorem Table.get_set_of_ne {α : Type} (t : Table α) {x y : Byte} (h : y ≠ x) (a : α) : (t.set x a).get y = t.get y := by
  have : x.toNat ≠ y.toNat := fun e => h (BitVec.eq_of_toNat_eq e.symm)
  simp [Table.get_eq_getElem, Table.set, List.getElem_set_of_ne this]

/-- Files with the same 256 entries are the same file. -/
theorem Table.ext_get {α : Type} {t u : Table α} (h : ∀ x, t.get x = u.get x) : t = u := by
  obtain ⟨l, hl⟩ := t
  obtain ⟨k, hk⟩ := u
  congr
  apply List.ext_getElem (hl.trans hk.symm)
  intro n h1 h2
  have hn : n < 256 := hl ▸ h1
  have := h (BitVec.ofNat 8 n)
  simpa [Table.get_eq_getElem, Nat.mod_eq_of_lt hn] using this

/-- The pairs of a file, entry by entry. -/
theorem Table.pairs_eq {α : Type} (t : Table α) : t.pairs = symbols.map (fun x => (x, t.get x)) := by
  apply List.ext_getElem
  · simp [Table.pairs, symbols_length, t.size]
  · intro n h1 h2
    have hn : n < 256 := by simpa [symbols_length] using h2
    simp [Table.pairs, symbols_getElem, Table.get_eq_getElem, Nat.mod_eq_of_lt hn]

theorem Table.mem_pairs {α : Type} (t : Table α) (x : Byte) (a : α) : (x, a) ∈ t.pairs ↔ t.get x = a := by
  rw [Table.pairs_eq, List.mem_map]
  constructor
  · rintro ⟨y, _, e⟩
    obtain ⟨rfl, rfl⟩ := Prod.mk.inj e
    rfl
  · rintro rfl
    exact ⟨x, mem_symbols x, rfl⟩

@[simp] theorem Table.get_mapPairs {α β : Type} (f : Byte → α → β) (t : Table α) (x : Byte) :
    (t.mapPairs f).get x = f x (t.get x) := by
  simp [Table.get_eq_getElem, Table.mapPairs, Table.pairs, symbols]

@[simp] theorem Table.get_emptyCode (x : Byte) : emptyCode.get x = [] := Table.get_fill _ _

/-- A symbol stands among the coded entries with exactly its own code, and only if it has one. -/
theorem mem_codedEntries (t : Table Code) (x : Byte) (c : Code) :
    (x, c) ∈ codedEntries t ↔ t.get x = c ∧ c ≠ [] := by
  simp [codedEntries, List.mem_filter, Table.mem_pairs]

end Sys2Proof.Machine
end

