-- ==== Sys2Proof/Laws/Exec.lean ====
section
/-! SUPPORT. Everything each shared operation and each meaning can answer, said once: provers cite these and do not
unfold the meanings. -/

namespace Sys2Proof.Machine

theorem completeOk_eq (s : State) : completeOk s = .next (s.complete .ok) := rfl

theorem failWith_eq (e : ErrCode) (s : State) : failWith e s = .next (s.complete e) := rfl

theorem failDst_eq (e : ErrCode) (s : State) : failDst e s = .next (s.spoilDst.complete e) := rfl

theorem inRange_iff (b n : Word) : inRange b n = true ↔ b.toNat + n.toNat ≤ 2 ^ 32 := decide_eq_true_iff

theorem sourceOk_iff (l : Latch) : l.sourceOk = true ↔ l.srcAddr.toNat + l.srcLen.toNat ≤ 2 ^ 32 :=
  inRange_iff ..

theorem overlap_iff (b1 n1 b2 n2 : Word) :
    overlap b1 n1 b2 n2 = true ↔
      0 < n1.toNat ∧ 0 < n2.toNat ∧ b1.toNat < b2.toNat + n2.toNat ∧ b2.toNat < b1.toNat + n1.toNat := by
  simp [overlap, and_assoc]

theorem regionsOk_iff (l : Latch) :
    l.regionsOk = true ↔
      l.srcAddr.toNat + l.srcLen.toNat ≤ 2 ^ 32 ∧ l.dstAddr.toNat + l.dstCap.toNat ≤ 2 ^ 32 ∧
        ¬ (0 < l.srcLen.toNat ∧ 0 < l.dstCap.toNat ∧ l.srcAddr.toNat < l.dstAddr.toNat + l.dstCap.toNat ∧
            l.dstAddr.toNat < l.srcAddr.toNat + l.srcLen.toNat) := by
  simp only [Latch.regionsOk, Bool.and_eq_true, Bool.not_eq_true', ← Bool.not_eq_true, overlap_iff, and_assoc,
    inRange_iff]

theorem sourceBytes_length (s : State) : s.sourceBytes.length = s.latch.srcLen.toNat :=
  Memory.readBytes_length ..

/-- The two ends of `encodeInto`: the container is written and counted, or it does not fit. -/
theorem encodeInto_cases (b : List Byte) (s : State) :
    ((containerOf s.code b).length ≤ s.latch.dstCap.toNat ∧
      encodeInto b s =
        .next (((s.deliver (containerOf s.code b)).withHeader (BitVec.ofNat 32 (pack (encodeBits s.code b)).2)
          (BitVec.ofNat 32 (serializeTable s.code).length)).complete .ok)) ∨
    (s.latch.dstCap.toNat < (containerOf s.code b).length ∧
      encodeInto b s = .next (s.spoilDst.complete .dstOverflow)) := by
  by_cases h : (containerOf s.code b).length ≤ s.latch.dstCap.toNat
  · exact .inl ⟨h, if_pos h⟩
  · exact .inr ⟨by omega, if_neg h⟩

theorem execFreqAccum_cases (s : State) :
    (s.latch.sourceOk = true ∧
      execFreqAccum s = .next ((s.withFreq (accumulated s.freq s.sourceBytes)
        (s.sat || someSaturates s.freq s.sourceBytes)).complete .ok)) ∨
    (s.latch.sourceOk = false ∧ execFreqAccum s = .next (s.complete .region)) := by
  cases h : s.latch.sourceOk <;> simp [execFreqAccum, h, completeOk, failWith]

theorem execEncode_cases (s : State) :
    (s.latch.regionsOk = false ∧ execEncode s = .next (s.complete .region)) ∨
    (s.latch.regionsOk = true ∧ allCoded s.code s.sourceBytes = false ∧
      execEncode s = .next (s.spoilDst.complete .noCode)) ∨
    (s.latch.regionsOk = true ∧ allCoded s.code s.sourceBytes = true ∧
      execEncode s = encodeInto s.sourceBytes s) := by
  cases h : s.latch.regionsOk <;> cases k : allCoded s.code s.sourceBytes <;>
    simp [execEncode, h, k, failWith, failDst]

theorem execCompress_cases (s : State) :
    (s.latch.regionsOk = false ∧ execCompress s = .next (s.complete .region)) ∨
    (s.latch.regionsOk = true ∧ execCompress s = encodeInto s.sourceBytes s.recoded) := by
  cases h : s.latch.regionsOk <;> simp [execCompress, h, failWith]

theorem execParseHeader_cases (s : State) :
    (s.latch.sourceOk = false ∧ execParseHeader s = .next (s.complete .region)) ∨
    (s.latch.sourceOk = true ∧ ∃ e, parseContainer s.sourceBytes = .error e ∧
      execParseHeader s = .next ((s.headerRead s.sourceBytes).complete e)) ∨
    (s.latch.sourceOk = true ∧ ∃ p, parseContainer s.sourceBytes = .ok p ∧
      execParseHeader s = .next (((s.headerRead s.sourceBytes).withCode p.table).complete .ok)) := by
  cases h : s.latch.sourceOk with
  | false => exact .inl ⟨rfl, by simp [execParseHeader, h, failWith]⟩
  | true =>
    cases k : parseContainer s.sourceBytes with
    | error e => exact .inr (.inl ⟨rfl, e, rfl, by simp [execParseHeader, h, k, failWith]⟩)
    | ok p => exact .inr (.inr ⟨rfl, p, rfl, by simp [execParseHeader, h, k, completeOk]⟩)

theorem execDecompress_cases (s : State) :
    (s.latch.regionsOk = false ∧ execDecompress s = .next (s.complete .region)) ∨
    (s.latch.regionsOk = true ∧ ∃ e, parseContainer s.sourceBytes = .error e ∧
      execDecompress s = .next ((s.headerRead s.sourceBytes).spoilDst.complete e)) ∨
    (s.latch.regionsOk = true ∧ ∃ p, parseContainer s.sourceBytes = .ok p ∧
      ((decodeBits (codedEntries p.table) [] (retain p.payload p.pad) = none ∧
          execDecompress s =
            .next (((s.headerRead s.sourceBytes).withCode p.table).spoilDst.complete .unresolvableBits)) ∨
        ∃ out, decodeBits (codedEntries p.table) [] (retain p.payload p.pad) = some out ∧
          ((out.length ≤ s.latch.dstCap.toNat ∧
              execDecompress s =
                .next ((((s.headerRead s.sourceBytes).withCode p.table).deliver out).complete .ok)) ∨
            (s.latch.dstCap.toNat < out.length ∧
              execDecompress s =
                .next (((s.headerRead s.sourceBytes).withCode p.table).spoilDst.complete .dstOverflow))))) := by
  cases h : s.latch.regionsOk with
  | false => exact .inl ⟨rfl, by simp [execDecompress, h, failWith]⟩
  | true =>
    cases k : parseContainer s.sourceBytes with
    | error e => exact .inr (.inl ⟨rfl, e, rfl, by simp [execDecompress, h, k, failDst, failWith]⟩)
    | ok p =>
      refine .inr (.inr ⟨rfl, p, rfl, ?_⟩)
      cases d : decodeBits (codedEntries p.table) [] (retain p.payload p.pad) with
      | none => exact .inl ⟨rfl, by simp [execDecompress, h, k, d, failDst, failWith]⟩
      | some out =>
        refine .inr ⟨out, rfl, ?_⟩
        by_cases f : out.length ≤ s.latch.dstCap.toNat
        · exact .inl ⟨f, by simp [execDecompress, h, k, d, f, completeOk]⟩
        · exact .inr ⟨by omega, by simp [execDecompress, h, k, d, f, failDst, failWith]⟩

/-- What reading the header changes: CODE becomes empty, and the two header fields may be written. -/
theorem headerRead_eq (s : State) (c : List Byte) :
    s.headerRead c = { s with
      code := emptyCode
      padCount := (s.headerRead c).padCount
      tableLen := (s.headerRead c).tableLen } := by
  unfold State.headerRead
  cases headerFields c <;> rfl

/-- Whatever the command and the state, exec answers a next state, and it is a completion. -/
theorem exec_answers (i : Instr) (s : State) : ∃ (u : State) (e : ErrCode), exec i s = .next (u.complete e) := by
  have enc : ∀ b s, ∃ (u : State) (e : ErrCode), encodeInto b s = .next (u.complete e) := fun b s => by
    rcases encodeInto_cases b s with ⟨_, h⟩ | ⟨_, h⟩ <;> exact ⟨_, _, h⟩
  cases i with
  | nop => exact ⟨s, .ok, rfl⟩
  | freqClear => exact ⟨_, _, rfl⟩
  | buildCodes => exact ⟨_, _, rfl⟩
  | illegal o r => exact ⟨s, .illegalCmd, rfl⟩
  | freqAccum => rcases execFreqAccum_cases s with ⟨_, h⟩ | ⟨_, h⟩ <;> exact ⟨_, _, h⟩
  | encode =>
    rcases execEncode_cases s with ⟨_, h⟩ | ⟨_, _, h⟩ | ⟨_, _, h⟩
    · exact ⟨_, _, h⟩
    · exact ⟨_, _, h⟩
    · obtain ⟨u, e, k⟩ := enc s.sourceBytes s
      exact ⟨u, e, h.trans k⟩
  | compress =>
    rcases execCompress_cases s with ⟨_, h⟩ | ⟨_, h⟩
    · exact ⟨_, _, h⟩
    · obtain ⟨u, e, k⟩ := enc s.sourceBytes s.recoded
      exact ⟨u, e, h.trans k⟩
  | parseHeader =>
    rcases execParseHeader_cases s with ⟨_, h⟩ | ⟨_, _, _, h⟩ | ⟨_, _, _, h⟩ <;> exact ⟨_, _, h⟩
  | decompress =>
    rcases execDecompress_cases s with ⟨_, h⟩ | ⟨_, _, _, h⟩ | ⟨_, _, _, ⟨_, h⟩ | ⟨_, _, ⟨_, h⟩ | ⟨_, h⟩⟩⟩ <;>
      exact ⟨_, _, h⟩

/-- The ENGINE's turn: nothing while idle, the latched command while busy. -/
theorem engineTurn_cases (s : State) :
    (s.busy = false ∧ engineTurn s = .next s) ∨ (s.busy = true ∧ engineTurn s = exec s.latchedInstr s) := by
  cases h : s.busy <;> simp [engineTurn, h]

/-- Everything one step can be: a turn of the ENGINE, a host operation or a reset. -/
theorem step_cases (s : State) :
    (s.events = [] ∧ step s = engineTurn s) ∨
    (∃ es, s.events = .engine :: es ∧ step s = engineTurn (s.rest es)) ∨
    (∃ v es, s.events = .engineMeetsIrqWrite v :: es ∧ step s = engineTurn ((s.rest es).clearIrq v)) ∨
    (∃ es, s.events = .rst :: es ∧ step s = .next (s.rest es).resetBlock) ∨
    (∃ w off v es, s.events = .host (.wr w off v) :: es ∧ step s = .next ((s.rest es).hostWr w off v)) ∨
    (∃ w off es, s.events = .host (.rd w off) :: es ∧ step s = .next ((s.rest es).hostRd w off)) ∨
    (∃ a b es, s.events = .host (.memw a b) :: es ∧ step s = .next ((s.rest es).hostMemWrite a b)) ∨
    (∃ a es, s.events = .host (.memr a) :: es ∧ step s = .next ((s.rest es).hostMemRead a)) ∨
    (∃ es, s.events = .host .wait :: es ∧ s.busy = true ∧ step s = engineTurn s) ∨
    (∃ es, s.events = .host .wait :: es ∧ s.busy = false ∧ step s = .next (s.rest es)) := by
  unfold step turn
  cases h : s.events with
  | nil => exact .inl ⟨rfl, rfl⟩
  | cons ev es =>
    cases ev with
    | engine => exact .inr (.inl ⟨es, rfl, rfl⟩)
    | engineMeetsIrqWrite v => exact .inr (.inr (.inl ⟨v, es, rfl, rfl⟩))
    | rst => exact .inr (.inr (.inr (.inl ⟨es, rfl, rfl⟩)))
    | host op =>
      cases op with
      | wr w off v => exact .inr (.inr (.inr (.inr (.inl ⟨w, off, v, es, rfl, rfl⟩))))
      | rd w off => exact .inr (.inr (.inr (.inr (.inr (.inl ⟨w, off, es, rfl, rfl⟩)))))
      | memw a b => exact .inr (.inr (.inr (.inr (.inr (.inr (.inl ⟨a, b, es, rfl, rfl⟩))))))
      | memr a => exact .inr (.inr (.inr (.inr (.inr (.inr (.inr (.inl ⟨a, es, rfl, rfl⟩)))))))
      | wait =>
        cases hb : s.busy with
        | true =>
          exact .inr (.inr (.inr (.inr (.inr (.inr (.inr (.inr (.inl ⟨es, rfl, rfl, by simp [hostTurn, hb]⟩))))))))
        | false =>
          exact .inr (.inr (.inr (.inr (.inr (.inr (.inr (.inr (.inr ⟨es, rfl, rfl, by simp [hostTurn, hb]⟩))))))))

/-- The three things a host register write can do. -/
theorem hostWr_cases (s : State) (w off : Nat) (v : Word) :
    (0x3000 ≤ off ∧ s.hostWr w off v = s) ∨
    (off < 0x3000 ∧ w = 32 ∧ off % 4 = 0 ∧ s.hostWr w off v = s.writeReg (regAt off) v) ∨
    (off < 0x3000 ∧ (w ≠ 32 ∨ off % 4 ≠ 0) ∧ s.hostWr w off v = { s with refused := true }) := by
  unfold State.hostWr accessDefined Config.regWindow
  by_cases h : 0x3000 ≤ off
  · exact .inl ⟨h, if_pos h⟩
  · by_cases hw : w = 32 <;> by_cases ho : off % 4 = 0 <;> simp [h, hw, ho] <;> omega

/-- The three things a host register read can do. -/
theorem hostRd_cases (s : State) (w off : Nat) :
    (0x3000 ≤ off ∧ s.hostRd w off = s.readAny off) ∨
    (off < 0x3000 ∧ w = 32 ∧ off % 4 = 0 ∧ s.hostRd w off = s.readReg off) ∨
    (off < 0x3000 ∧ (w ≠ 32 ∨ off % 4 ≠ 0) ∧
      s.hostRd w off = ({ s with refused := true } : State).observe (.reg off none)) := by
  unfold State.hostRd accessDefined Config.regWindow
  by_cases h : 0x3000 ≤ off
  · exact .inl ⟨h, if_pos h⟩
  · by_cases hw : w = 32 <;> by_cases ho : off % 4 = 0 <;> simp [h, hw, ho] <;> omega

/-- A defined read: any value of a result while busy, the register's value otherwise. -/
theorem readReg_cases (s : State) (off : Nat) :
    (s.busy = true ∧ (regAt off).anyWhileBusy = true ∧ s.readReg off = s.readAny off) ∨
    ((s.busy = false ∨ (regAt off).anyWhileBusy = false) ∧
      s.readReg off = s.observe (.reg off (some (s.regValue (regAt off))))) := by
  unfold State.readReg
  cases s.busy <;> cases (regAt off).anyWhileBusy <;> simp

/-- A memory read: any value of a destination byte while busy, MEM's byte otherwise. -/
theorem hostMemRead_cases (s : State) (a : Word) :
    (s.busy = true ∧ s.latch.inDest a.toNat = true ∧
      s.hostMemRead a = (s.observe (.mem a (Config.freeByte s.draws a.toNat))).drawn) ∨
    ((s.busy = false ∨ s.latch.inDest a.toNat = false) ∧
      s.hostMemRead a = s.observe (.mem a (Memory.read s.mem a.toNat))) := by
  unfold State.hostMemRead
  cases s.busy <;> cases s.latch.inDest a.toNat <;> simp

/-- Every step keeps the canonical form of memory, as far as host accesses and resets go. -/
theorem hostMemWrite_wf (s : State) (h : Memory.wf s.mem = true) (a : Word) (b : Byte) :
    Memory.wf (s.hostMemWrite a b).mem = true := Memory.wf_write h a.isLt b

theorem resetBlock_wf (s : State) (h : Memory.wf s.mem = true) : Memory.wf s.resetBlock.mem = true := by
  rw [State.resetBlock_mem]
  unfold State.aborted
  split
  · rename_i hs
    have : s.latch.regionsOk = true := by
      simp only [State.abortSpoils, Bool.and_eq_true] at hs
      exact hs.1.2
    rw [Latch.regionsOk, Bool.and_eq_true, Bool.and_eq_true] at this
    exact State.spoilDst_wf s h this.1.2
  · exact h

theorem reset_mem_wf : Memory.wf State.reset.mem = true := rfl

end Sys2Proof.Machine
end

