-- ==== Sys2Proof/Laws/Bits.lean ====
section
/-! SUPPORT. The packer, the table's file operations and the parser: small lemmas that unfold each definition once. -/

namespace Sys2Proof.Machine

@[simp] theorem bitsOfByte_length (b : Byte) : (bitsOfByte b).length = 8 := by simp [bitsOfByte]

@[simp] theorem unpack_nil : unpack [] = [] := rfl

@[simp] theorem unpack_cons (b : Byte) (p : List Byte) : unpack (b :: p) = bitsOfByte b ++ unpack p := rfl

theorem unpack_append (p q : List Byte) : unpack (p ++ q) = unpack p ++ unpack q := by
  simp [unpack]

theorem unpack_length (p : List Byte) : (unpack p).length = 8 * p.length := by
  induction p with
  | nil => rfl
  | cons b p ih => rw [unpack_cons, List.length_append, ih, bitsOfByte_length, List.length_cons]; omega

theorem writeBits_nil (p : BitWriter) : writeBits p [] = p := rfl

theorem writeBits_cons (p : BitWriter) (x : Bool) (u : Code) : writeBits p (x :: u) = writeBits (writeBit p x) u := rfl

theorem writeBits_append (p : BitWriter) (u v : Code) : writeBits p (u ++ v) = writeBits (writeBits p u) v :=
  List.foldl_append

@[simp] theorem be32Bytes_length (v : Nat) : (be32Bytes v).length = 4 := rfl

theorem makeContainer_length (pad : Nat) (t p : List Byte) :
    (makeContainer pad t p).length = 8 + t.length + p.length := by
  simp [makeContainer]; omega

theorem entryBytes_length (e : Byte × Code) : (entryBytes e).length = 2 + e.2.length := by
  simp [entryBytes]; omega

theorem digitBit_digitByte (x : Bool) : digitBit (digitByte x) = some x := by cases x <;> rfl

theorem encodeBits_nil (t : Table Code) : encodeBits t [] = [] := rfl

theorem encodeBits_append (t : Table Code) (b c : List Byte) :
    encodeBits t (b ++ c) = encodeBits t b ++ encodeBits t c := by
  simp [encodeBits]

theorem allCoded_iff (t : Table Code) (b : List Byte) : allCoded t b = true ↔ ∀ x ∈ b, t.get x ≠ [] := by
  simp [allCoded, lookupCode]

theorem tableOf_get (l : List (Byte × Code)) (x : Byte) : (tableOf l).get x = (l.lookup x).getD [] :=
  Table.get_ofFn _ _

theorem accumulated_get (f : Table Word) (b : List Byte) (x : Byte) :
    (accumulated f b).get x = satAdd (f.get x) (b.count x) :=
  Table.get_mapPairs ..

theorem satAdd_toNat (f : Word) (c : Nat) : (satAdd f c).toNat = min (f.toNat + c) 0xFFFFFFFF := by
  have : min (f.toNat + c) 0xFFFFFFFF < 2 ^ 32 := by omega
  simp only [satAdd, Config.counterMax, BitVec.toNat_ofNat]
  exact Nat.mod_eq_of_lt this

/-- The merge comparator's position never passes the end of the list. -/
theorem insertPos_le (l : List Entry) (w : Nat) : insertPos l w ≤ l.length := List.countP_le_length

theorem insertEntry_length (l : List Entry) (n : Entry) : (insertEntry l n).length = l.length + 1 := by
  have := insertPos_le l n.weight
  simp [insertEntry]
  omega

/-- A merge step shortens a list of two or more by one (41_tree_and_codes R174). -/
theorem mergeStep_length (a b : Entry) (rest : List Entry) :
    (mergeStep (a :: b :: rest)).length = (a :: b :: rest).length - 1 := by
  simp [mergeStep, insertEntry_length]

end Sys2Proof.Machine
end

