-- ==== Sys2Proof/Laws/PerInstr.lean ====
section
/-! SUPPORT. Statements made instruction by instruction. -/

namespace Sys2Proof.Laws

/-- The value and the mask of a command's row in spec/opcode_table.json; the catch-all ILLEGAL row matches all. -/
def rowOf : Instr → Word × Word
  | .nop => (0x00000000, 0xFFFFFFFF)
  | .freqClear => (0x00000001, 0xFFFFFFFF)
  | .freqAccum => (0x00000002, 0xFFFFFFFF)
  | .buildCodes => (0x00000003, 0xFFFFFFFF)
  | .encode => (0x00000004, 0xFFFFFFFF)
  | .compress => (0x00000005, 0xFFFFFFFF)
  | .parseHeader => (0x00000006, 0xFFFFFFFF)
  | .decompress => (0x00000007, 0xFFFFFFFF)
  | .illegal _ _ => (0x00000000, 0x00000000)

/-- The command's word matches its row of the opcode table. -/
def EncodesInRow.Statement (i : Instr) : Prop := encode i &&& (rowOf i).2 = (rowOf i).1

theorem EncodesInRow.nop : EncodesInRow.Statement .nop := by unfold EncodesInRow.Statement; decide
theorem EncodesInRow.freqClear : EncodesInRow.Statement .freqClear := by unfold EncodesInRow.Statement; decide
theorem EncodesInRow.freqAccum : EncodesInRow.Statement .freqAccum := by unfold EncodesInRow.Statement; decide
theorem EncodesInRow.buildCodes : EncodesInRow.Statement .buildCodes := by unfold EncodesInRow.Statement; decide
theorem EncodesInRow.encode : EncodesInRow.Statement .encode := by unfold EncodesInRow.Statement; decide
theorem EncodesInRow.compress : EncodesInRow.Statement .compress := by unfold EncodesInRow.Statement; decide
theorem EncodesInRow.parseHeader : EncodesInRow.Statement .parseHeader := by unfold EncodesInRow.Statement; decide
theorem EncodesInRow.decompress : EncodesInRow.Statement .decompress := by unfold EncodesInRow.Statement; decide
theorem EncodesInRow.illegal (opcode : BitVec 4) (reserved : BitVec 28) :
    EncodesInRow.Statement (.illegal opcode reserved) := by simp [EncodesInRow.Statement, rowOf]

end Sys2Proof.Laws
end

