-- ==== Sys2Proof/Tests/Slice0.lean ====
section
/-! SUPPORT. The model's own tests, each against a vector or a worked example of the spec, and for every statement with
hypotheses a witness that meets them all. -/

namespace Sys2Proof.Tests

open Sys2Proof.Machine

set_option Elab.async false

/-- The command ended in a next state with this property. -/
def ends (o : Host.Outcome State Fault Refusal) (p : State → Bool) : Bool :=
  match o with
  | .next t => p t
  | .fault _ => false
  | .refused _ => false

theorem of_ends {o : Host.Outcome State Fault Refusal} {p : State → Bool} (h : ends o p = true) :
    ∃ t, o = .next t ∧ p t = true := by
  cases o with
  | next t => exact ⟨t, rfl, h⟩
  | fault r => cases h
  | refused r => cases h

/-- A busy machine with this memory, source region and destination region latched. -/
def busyWith (mem : Memory) (sa sl da dc : Word) : State :=
  { State.resetWith mem with busy := true, latch := ⟨0, false, sa, sl, da, dc⟩ }

/-- Memory with `bs` at address 0x10 and 0 elsewhere. -/
def at10 (bs : List Byte) : Memory := Memory.writeBytes [] 0x10 bs

/-- "aab" at 0x10. -/
def aab : Memory := [(0x10, 0x61), (0x11, 0x61), (0x12, 0x62)]

/-- FREQ with the weights listed, 0 elsewhere. -/
def freqs (l : List (Byte × Word)) : Table Word := l.foldl (fun t e => t.set e.1 e.2) (Table.fill 0)

/-- The codes of V-T1: 0x61 = 11, 0x62 = 0, 0x63 = 10. -/
def vT1 : Table Code := tableOf [(0x61, [true, true]), (0x62, [false]), (0x63, [true, false])]

/-! ### Syntax and decoding -/

/-- A word without RESERVED bits and with a defined opcode is no illegal word (30_encoding R109). -/
theorem test_wf_refuses_illegal_5_0 : (Instr.illegal 0x5 0).wf = false := by decide
theorem test_wf_takes_high_opcode : (Instr.illegal 0x8 0).wf = true := by decide
theorem test_wf_takes_reserved_bits : (Instr.illegal 0x5 1).wf = true := by decide

theorem test_decode_nop : decodeTableWord 32 0b0000_0000_0000_0000_0000_0000_0000_0000 = some .nop := by decide
theorem test_decode_freqClear :
    decodeTableWord 32 0b0000_0000_0000_0000_0000_0000_0000_0001 = some .freqClear := by decide
theorem test_decode_freqAccum :
    decodeTableWord 32 0b0000_0000_0000_0000_0000_0000_0000_0010 = some .freqAccum := by decide
theorem test_decode_buildCodes :
    decodeTableWord 32 0b0000_0000_0000_0000_0000_0000_0000_0011 = some .buildCodes := by decide
theorem test_decode_encode : decodeTableWord 32 0b0000_0000_0000_0000_0000_0000_0000_0100 = some .encode := by decide
theorem test_decode_compress :
    decodeTableWord 32 0b0000_0000_0000_0000_0000_0000_0000_0101 = some .compress := by decide
theorem test_decode_parseHeader :
    decodeTableWord 32 0b0000_0000_0000_0000_0000_0000_0000_0110 = some .parseHeader := by decide
theorem test_decode_decompress :
    decodeTableWord 32 0b0000_0000_0000_0000_0000_0000_0000_0111 = some .decompress := by decide
theorem test_decode_reserved_opcode :
    decodeTableWord 32 0b0000_0000_0000_0000_0000_0000_0000_1111 = some (.illegal 0xF 0) := by decide
theorem test_decode_reserved_bits :
    decodeTableWord 32 0b1000_0000_0000_0000_0000_0000_0000_0101 = some (.illegal 0x5 0x8000000) := by decide
theorem test_decode_rejects_16_bits : decodeWrite 16 5 = .error (.notOneWord 16) := by decide
theorem test_decode_rejects_33_bit_value : decodeWrite 32 0x100000005 = .error (.valueTooWide 32 0x100000005) := by
  decide

/-! ### The commands -/

/-- V-K2: NOP after reset with DONE_IE set gives STATUS 0x2 and irq. -/
theorem test_nop_V_K2 :
    ends (exec .nop ({ State.reset with irqEn := 1 }.accept 0)) (fun t => t.statusWord == 0x2 && t.irq) = true := by
  decide +kernel

/-- V-K4: 0x15 gives STATUS 0x0806, and CMD reads 0x5. -/
theorem test_illegal_V_K4 :
    ends (step (State.reset.withFetchWord 32 0x15)) (fun t => t.statusWord == 0x0806 && t.regValue .cmd == 0x5) =
      true := by
  decide +kernel

/-- V-F5: FREQ_CLEAR clears the counters and SAT. -/
theorem test_freqClear_V_F5 :
    ends (exec .freqClear { State.reset with freq := freqs [(0x61, 0xFFFFFFFF)], sat := true })
      (fun t => t.statusWord == 0x2 && t.freq.get 0x61 == 0) = true := by
  decide +kernel

/-- V-F3: 0xFFFF_FFFE and two occurrences saturate: STATUS 0x0012. -/
theorem test_freqAccum_V_F3 :
    ends (exec .freqAccum { busyWith aab 0x10 2 0 0 with freq := freqs [(0x61, 0xFFFFFFFE)] })
      (fun t => t.statusWord == 0x12 && t.freq.get 0x61 == 0xFFFFFFFF) = true := by
  decide +kernel

/-- V-F7: the source (0xFFFF_FFFF, 2) is out of range: STATUS 0x0706. -/
theorem test_freqAccum_V_F7 :
    ends (exec .freqAccum { busyWith [] 0xFFFFFFFF 2 0 0 with freq := freqs [(0x61, 3)] })
      (fun t => t.statusWord == 0x0706 && t.freq.get 0x61 == 3) = true := by
  decide +kernel

/-- V-T1: a = 3, b = 4, c = 2. -/
theorem test_buildCodes_V_T1 :
    codedEntries (builtCodes (freqs [(0x61, 3), (0x62, 4), (0x63, 2)])) =
      [(0x61, [true, true]), (0x62, [false]), (0x63, [true, false])] := by
  decide +kernel

/-- V-T2: four equal weights tell "before equals" from "after equals". -/
theorem test_buildCodes_V_T2 :
    codedEntries (builtCodes (freqs [(0x61, 1), (0x62, 1), (0x63, 1), (0x64, 1)])) =
      [(0x61, [true, false]), (0x62, [true, true]), (0x63, [false, false]), (0x64, [false, true])] := by
  decide +kernel

/-- V-E1: the 21-byte container of "aaabbbbcc" under V-T1's codes. -/
theorem test_encode_V_E1 :
    ends (exec .encode { busyWith (at10 [0x61, 0x61, 0x61, 0x62, 0x62, 0x62, 0x62, 0x63, 0x63]) 0x10 9 0x20 0x40 with
        code := vT1 })
      (fun t => Memory.readBytes t.mem 0x20 21 ==
          [0x00, 0x00, 0x00, 0x02, 0x00, 0x00, 0x00, 0x0B, 0x61, 0x02, 0x31, 0x31, 0x62, 0x01, 0x30, 0x63, 0x02, 0x31,
            0x30, 0xFC, 0x28] &&
        t.outLen == 21 && t.padCount == 2 && t.tableLen == 11) = true := by
  decide +kernel

/-- V-E4: NO_CODE beats DST_OVERFLOW. -/
theorem test_encode_V_E4 :
    ends (exec .encode { busyWith (at10 [0x61, 0x62, 0x7A]) 0x10 3 0x20 0 with code := vT1 })
      (fun t => t.statusWord == 0x0506) = true := by
  decide +kernel

/-- V-C2: COMPRESS of "aaaa". -/
theorem test_compress_V_C2 :
    ends (exec .compress (busyWith (at10 [0x61, 0x61, 0x61, 0x61]) 0x10 4 0x20 0x40))
      (fun t => Memory.readBytes t.mem 0x20 12 ==
          [0x00, 0x00, 0x00, 0x04, 0x00, 0x00, 0x00, 0x03, 0x61, 0x01, 0x30, 0x00] &&
        t.outLen == 12 && t.freq.get 0x61 == 4 && t.nsym == 1) = true := by
  decide +kernel

/-- V-C11: COMPRESS of nothing into 7 bytes overflows. -/
theorem test_compress_V_C11 :
    ends (exec .compress (busyWith [] 0x10 0 0x20 7)) (fun t => t.statusWord == 0x0606 && t.outLen == 0) = true := by
  decide +kernel

/-- V-D18: 0 is a prefix of 01. -/
theorem test_parseHeader_V_D18 :
    ends (exec .parseHeader (busyWith (at10 [0, 0, 0, 0, 0, 0, 0, 7, 0x61, 1, 0x30, 0x62, 2, 0x30, 0x31]) 0x10 15 0 0))
      (fun t => t.statusWord == 0x0206 && t.tableLen == 7 && t.nsym == 0) = true := by
  decide +kernel

/-- V-D11: the padding check comes before the table check. -/
theorem test_parseHeader_V_D11 :
    ends (exec .parseHeader (busyWith (at10 [0, 0, 0, 8, 0, 0, 0, 2, 0x61, 0]) 0x10 10 0 0))
      (fun t => t.statusWord == 0x0306 && t.padCount == 8 && t.tableLen == 2) = true := by
  decide +kernel

/-- V-X1: a truncation that is not detected decodes to "aaa". -/
theorem test_decompress_V_X1 :
    ends (exec .decompress (busyWith
        (at10 [0, 0, 0, 2, 0, 0, 0, 0x0B, 0x61, 2, 0x31, 0x31, 0x62, 1, 0x30, 0x63, 2, 0x31, 0x30, 0xFC]) 0x10 20 0x40
        0x40))
      (fun t => t.statusWord == 0x2 && t.outLen == 3 && Memory.readBytes t.mem 0x40 4 == [0x61, 0x61, 0x61, 0]) =
      true := by
  decide +kernel

/-- V-D25: the retained bit 1 is a dead end; CODE keeps the parsed table. -/
theorem test_decompress_V_D25 :
    ends (exec .decompress (busyWith (at10 [0, 0, 0, 7, 0, 0, 0, 3, 0x61, 1, 0x30, 0x80]) 0x10 12 0x40 0x40))
      (fun t => t.statusWord == 0x0406 && t.nsym == 1 && t.outLen == 0) = true := by
  decide +kernel

/-! ### Primitives, host port, reset -/

/-- 42_bit_packing R208: Pack of 11111100001010 is FC 28 with 2 padding bits. -/
theorem test_pack_R208 :
    pack [true, true, true, true, true, true, false, false, false, false, true, false, true, false] =
      ([0xFC, 0x28], 2) := by
  decide +kernel

/-- 42_bit_packing R208: Retain([0x28], 2) = 001010. -/
theorem test_retain_R208 : retain [0x28] 2 = [false, false, true, false, true, false] := by decide +kernel

/-- V-T1: CODE_BITS[0x61][0] = 0xC000_0000 and CODE_LEN[0x61] = 2. -/
theorem test_codeViews_V_T1 :
    ({ State.reset with code := vT1 }.regValue (.codeBits 0x61 0), { State.reset with code := vT1 }.regValue
      (.codeLen 0x61)) = (0xC0000000, 2) := by
  decide +kernel

/-- V-K14: a 32-bit read at 0x012 is refused and returns no value. -/
theorem test_refused_V_K14 :
    ends (step { State.reset with events := [.host (.rd 32 0x012)] })
      (fun t => t.refused && t.observed == [.reg 0x012 none]) = true := by
  decide +kernel

/-- V-K9: a soft reset of a busy COMPRESS leaves the block idle and its destination open. -/
theorem test_abort_V_K9 :
    ends (step { busyWith aab 0x10 3 0x20 0x40 with
        latch := ⟨5, false, 0x10, 3, 0x20, 0x40⟩, events := [.host (.wr 32 0x008 1)] })
      (fun t => t.statusWord == 0 && t.draws == 1) = true := by
  decide +kernel

/-- V-K12: a host write into the source while busy sets RACE. -/
theorem test_race_V_K12 :
    ends (step { busyWith aab 0x10 3 0x20 0x40 with events := [.host (.memw 0x11 7)] }) (fun t => t.race) = true := by
  decide +kernel

/-- A host access outside the window leaves a busy block as it is (70_reset R367: no host behaviour can prevent
completion). -/
theorem test_outside_window_goes_on :
    ends (step { busyWith [] 0 0 0 0 with events := [.host (.wr 16 0x3001 7)] })
      (fun t => t == busyWith [] 0 0 0 0) = true := by
  decide +kernel

/-- MEMW stops at the end of memory: address 0xFFFF_FFFF is the last (20_memory R80). -/
theorem test_memw_last_address : memwLine 0xFFFFFFFF [7, 8] = [.host (.memw 0xFFFFFFFF 7)] := by decide +kernel

/-! ### Witnesses: each statement's hypotheses are met together -/

/-- A code table with the one code 0x61 = 0. -/
def oneCode : Table Code := tableOf [(0x61, [false])]

theorem oneCode_get (x : Byte) : oneCode.get x = if x = 0x61#8 then [false] else [] := by
  rw [oneCode, tableOf_get]
  by_cases h : x = 0x61#8
  · simp [h]
  · have hb : (x == 0x61#8) = false := beq_eq_false_iff_ne.mpr h
    rw [if_neg h]
    show (match x == 0x61#8 with | true => some [false] | false => none).getD [] = []
    rw [hb]
    rfl

theorem oneCode_prefixFree : PrefixFree oneCode := by
  intro x y h hx hy
  rw [oneCode_get] at hx hy
  by_cases h1 : x = 0x61#8
  · by_cases h2 : y = 0x61#8
    · exact absurd (h1.trans h2.symm) h
    · exact absurd (if_neg h2) hy
  · exact absurd (if_neg h1) hx

theorem oneCode_codeOk : CodeOk oneCode := by
  refine ⟨oneCode_prefixFree, fun x => ?_⟩
  rw [oneCode_get]
  split <;> simp

theorem emptyCode_codeOk : CodeOk emptyCode :=
  ⟨fun x _ _ hx => absurd (Table.get_emptyCode x) hx, fun x => by simp⟩

theorem witness_DecodeInvertsEncode : (Instr.illegal 0x7 1).wf = true ∧ (Instr.illegal 0x8 0).wf = true := by decide

theorem witness_CmdWriteWhileIdleIsAccepted :
    { State.reset with events := [.host (.wr 32 0x00C 5)] }.events = [.host (.wr 32 0x00C 5)] ∧
      { State.reset with events := [.host (.wr 32 0x00C 5)] }.busy = false := ⟨rfl, rfl⟩

theorem witness_CmdWriteWhileBusySetsOnlyOvr :
    { busyWith [] 0 0 0 0 with events := [.host (.wr 32 0x00C 7)] }.events = [.host (.wr 32 0x00C 7)] ∧
      { busyWith [] 0 0 0 0 with events := [.host (.wr 32 0x00C 7)] }.busy = true := ⟨rfl, rfl⟩

theorem witness_StepRunsTheLatchedCommand :
    (busyWith [] 0 0 0 0).busy = true ∧ (busyWith [] 0 0 0 0).events = [] ∧
      { busyWith [] 0 0 0 0 with events := [.engine] }.events = [.engine] ∧
      { busyWith [] 0 0 0 0 with events := [.host .wait] }.events = [.host .wait] := ⟨rfl, rfl, rfl, rfl⟩

theorem witness_AcceptedWordRunsNext : 32 ≤ 32 ∧ 0xFFFFFFFF < 2 ^ 32 := by decide

theorem witness_ErrorCodesOfEachCommand (i : Instr) : ∃ t, exec i State.reset = .next t :=
  let ⟨_, _, h⟩ := exec_answers i State.reset
  ⟨_, h⟩

theorem witness_RegionErrorExactlyWhenTheCheckFails :
    (busyWith [] 0xFFFFFFFF 1 0 0).latch.SourceInRange ∧ ¬ (busyWith [] 0xFFFFFFFF 2 0 0).latch.SourceInRange ∧
      (busyWith [] 0 0 0xFFFFFFF0 0x10).latch.DestInRange ∧ ¬ (busyWith [] 0 0 0xFFFFFFF0 0x11).latch.DestInRange ∧
      ¬ (busyWith [] 0x1000 0x10 0x1010 0x10).latch.RegionsOverlap ∧
      (busyWith [] 0x1000 0x20 0x101F 0x10).latch.RegionsOverlap ∧
      ∀ i s, ∃ t, exec i s = .next t := by
  unfold Latch.SourceInRange Latch.DestInRange Latch.RegionsOverlap
  exact ⟨by decide, by decide, by decide, by decide, by decide, by decide,
    fun i s => let ⟨_, _, h⟩ := exec_answers i s; ⟨_, h⟩⟩

theorem witness_RegionAndIllegalChangeNothing :
    (∃ t, exec (.illegal 8 0) (State.reset.accept 8) = .next t ∧ t.errCode = .illegalCmd) ∧
      ∃ t, exec .freqAccum ({ State.reset with srcAddr := 0xFFFFFFFF, srcLen := 2 }.accept 2) = .next t ∧
        t.errCode = .region :=
  ⟨⟨_, rfl, rfl⟩,
    let ⟨t, h, p⟩ := of_ends (p := fun t => t.errCode == .region)
      (o := exec .freqAccum ({ State.reset with srcAddr := 0xFFFFFFFF, srcLen := 2 }.accept 2)) (by decide +kernel)
    ⟨t, h, by simpa using p⟩⟩

theorem witness_IllegalCommandFails :
    (8 ≤ (8#32).toNat % 16 ∨ (8#32).toNat / 16 ≠ 0) ∧ (8 ≤ (0x10#32).toNat % 16 ∨ (0x10#32).toNat / 16 ≠ 0) := by
  decide

theorem witness_FreqAccumAddsTheCounts :
    (busyWith aab 0x10 3 0 0).latch.SourceInRange ∧ ¬ (busyWith aab 0xFFFFFFFF 2 0 0).latch.SourceInRange := by
  unfold Latch.SourceInRange
  decide

/-- "a" and then "ab", against "aab". -/
theorem witness_ChunkedAccumulationIsOneAccumulation :
    ∃ s u v t₁ t₂ t : State,
      exec .freqAccum s = .next t₁ ∧ t₁.errCode = .ok ∧ u.freq = t₁.freq ∧
      exec .freqAccum u = .next t₂ ∧ t₂.errCode = .ok ∧
      v.freq = s.freq ∧ v.sourceBytes = s.sourceBytes ++ u.sourceBytes ∧
      exec .freqAccum v = .next t ∧ t.errCode = .ok ∧
      ∀ x, (v.freq.get x).toNat + v.occurrences x ≤ 2 ^ 32 - 1 := by
  obtain ⟨t₁, h₁, e₁⟩ := of_ends (o := exec .freqAccum (busyWith aab 0x10 1 0 0)) (p := fun t => t.errCode == .ok)
    (by decide +kernel)
  obtain ⟨t, h, e⟩ := of_ends (o := exec .freqAccum (busyWith aab 0x10 3 0 0)) (p := fun t => t.errCode == .ok)
    (by decide +kernel)
  have h₂ := (execFreqAccum_cases { busyWith aab 0x11 2 0 0 with freq := t₁.freq }).resolve_right
    (fun c => absurd c.1 (show ¬ (⟨0, false, 0x11, 2, 0, 0⟩ : Latch).sourceOk = false by decide))
  refine ⟨busyWith aab 0x10 1 0 0, { busyWith aab 0x11 2 0 0 with freq := t₁.freq }, busyWith aab 0x10 3 0 0, t₁, _, t,
    h₁, by simpa using e₁, rfl, h₂.2, rfl, rfl,
    (by decide +kernel : (busyWith aab 0x10 3 0 0).sourceBytes =
      (busyWith aab 0x10 1 0 0).sourceBytes ++ (busyWith aab 0x11 2 0 0).sourceBytes), h, by simpa using e, fun x => ?_⟩
  have h0 : (busyWith aab 0x10 3 0 0).freq.get x = 0 := Table.get_fill 0 x
  have hl : (busyWith aab 0x10 3 0 0).occurrences x ≤ 3 := by
    unfold State.occurrences
    exact (List.length_filter_le ..).trans (by simp [busyWith])
  rw [h0, show (0 : Word).toNat = 0 from rfl, Nat.zero_add]
  exact hl.trans (by decide)

/-- FREQ_CLEAR, and then an accepted FREQ_ACCUM with a latch of its own. -/
theorem witness_ClearThenAccumIsTheFrequencyTable :
    ∃ s t v u : State, exec .freqClear s = .next t ∧ v.freq = t.freq ∧ v.latch.SourceInRange ∧ v.busy = true ∧
      exec .freqAccum v = .next u := by
  obtain ⟨_, _, h⟩ := exec_answers .freqAccum (busyWith aab 0x10 3 0 0)
  exact ⟨State.reset.accept 1, ((State.reset.accept 1).withFreq (Table.fill 0) false).complete .ok,
    busyWith aab 0x10 3 0 0, _, rfl, rfl, by unfold Latch.SourceInRange; decide, rfl, h⟩

theorem witness_NewNodeGoesBeforeEqualWeights :
    [(⟨1, .leaf 0⟩ : Entry), ⟨2, .leaf 1⟩, ⟨2, .leaf 2⟩].Pairwise (fun a b => a.weight ≤ b.weight) := by decide

theorem witness_BuildCodesChangesOnlyCode :
    State.reset.freq = (busyWith aab 0x10 3 0 0).freq ∧ (∃ t, exec .buildCodes State.reset = .next t) ∧
      ∃ v, exec .buildCodes (busyWith aab 0x10 3 0 0) = .next v := ⟨rfl, ⟨_, rfl⟩, _, rfl⟩

theorem witness_BuildCodesCodesExactlyThePresentSymbols : ∃ t, exec .buildCodes State.reset = .next t := ⟨_, rfl⟩

/-- FREQ with 0x7A alone, as V-T5. -/
theorem witness_NoSymbolAndSingleSymbolCodes :
    (∀ x, State.reset.freq.get x = 0) ∧
      { State.reset with freq := freqs [(0x7A, 9)] }.freq.get 0x7A ≠ 0 ∧
      (∀ y, y ≠ 0x7A → { State.reset with freq := freqs [(0x7A, 9)] }.freq.get y = 0) ∧
      ∃ t, exec .buildCodes { State.reset with freq := freqs [(0x7A, 9)] } = .next t := by
  refine ⟨fun x => Table.get_fill 0 x, by decide +kernel, fun y hy => ?_, _, rfl⟩
  simp only [freqs, List.foldl_cons, List.foldl_nil]
  rw [Table.get_set_of_ne _ hy]
  exact Table.get_fill 0 y

theorem witness_FourEqualWeightsShowTheTieBreak :
    ∃ s t : State, exec .buildCodes s = .next t ∧ (1 : Word) ≠ 0 ∧ (0x61#8).toNat < (0x62#8).toNat ∧
      (0x62#8).toNat < (0x63#8).toNat ∧ (0x63#8).toNat < (0x64#8).toNat ∧
      s.freq.get 0x61 = 1 ∧ s.freq.get 0x62 = 1 ∧ s.freq.get 0x63 = 1 ∧ s.freq.get 0x64 = 1 ∧
      ∀ a, a ≠ 0x61 → a ≠ 0x62 → a ≠ 0x63 → a ≠ 0x64 → s.freq.get a = 0 := by
  refine ⟨{ State.reset with freq := freqs [(0x61, 1), (0x62, 1), (0x63, 1), (0x64, 1)] }, _, rfl, by decide, by decide,
    by decide, by decide, by decide +kernel, by decide +kernel, by decide +kernel, by decide +kernel,
    fun a h1 h2 h3 h4 => ?_⟩
  simp only [freqs, List.foldl_cons, List.foldl_nil]
  rw [Table.get_set_of_ne _ h4, Table.get_set_of_ne _ h3, Table.get_set_of_ne _ h2, Table.get_set_of_ne _ h1]
  exact Table.get_fill 0 a

theorem witness_BuiltCodeIsPrefixFree : ∃ t, exec .buildCodes { State.reset with freq := freqs [(1, 1), (2, 1)] } =
    .next t := ⟨_, rfl⟩

theorem witness_BuiltCodeLengths :
    (∃ t, exec .buildCodes { State.reset with freq := freqs [(1, 1), (2, 1)] } = .next t) ∧
      (freqs [(1, 1), (2, 1)]).get 1 ≠ 0 ∧ 2 ≤ presentCount (freqs [(1, 1), (2, 1)]) ∧
      (freqs [(0x7A, 9)]).get 0x7A ≠ 0 ∧ presentCount (freqs [(0x7A, 9)]) = 1 :=
  ⟨⟨_, rfl⟩, by decide +kernel, by decide +kernel, by decide +kernel, by decide +kernel⟩

theorem witness_BuiltCodeIsOptimal :
    (∃ t, exec .buildCodes { State.reset with freq := freqs [(0x61, 9)] } = .next t) ∧ PrefixFree oneCode ∧
      ∀ x, { State.reset with freq := freqs [(0x61, 9)] }.freq.get x ≠ 0 → oneCode.get x ≠ [] := by
  refine ⟨⟨_, rfl⟩, oneCode_prefixFree, fun x hx => ?_⟩
  rw [oneCode_get]
  by_cases h : x = 0x61
  · simp [h]
  · exfalso
    apply hx
    simp only [freqs, List.foldl_cons, List.foldl_nil]
    rw [Table.get_set_of_ne _ h]
    exact Table.get_fill 0 x

theorem witness_DecodeExactlyConcatenationsOfCodes : PrefixFree oneCode := oneCode_prefixFree

/-- "aab" under the codes a = 0, b = 1, into exactly 15 bytes. -/
def encodeCase (cap : Word) : State :=
  { busyWith aab 0x10 3 0x20 cap with code := tableOf [(0x61, [false]), (0x62, [true])] }

theorem encodeCase_legal (cap : Word) (h : cap.toNat ≤ 0x40) : (encodeCase cap).latch.RegionsLegal := by
  unfold Latch.RegionsLegal Latch.SourceInRange Latch.DestInRange Latch.RegionsOverlap
  have h1 : (encodeCase cap).latch = ⟨0, false, 0x10, 3, 0x20, cap⟩ := rfl
  rw [h1]
  simp
  omega

theorem encodeCase_coded (cap : Word) :
    ∀ i, i < 3 → (encodeCase cap).code.get ((encodeCase cap).sourceByte i) ≠ [] := by
  intro i hi
  have : i = 0 ∨ i = 1 ∨ i = 2 := by omega
  rcases this with rfl | rfl | rfl
  · show (tableOf [(0x61, [false]), (0x62, [true])]).get (Memory.read aab (0x10 + 0)) ≠ []
    decide +kernel
  · show (tableOf [(0x61, [false]), (0x62, [true])]).get (Memory.read aab (0x10 + 1)) ≠ []
    decide +kernel
  · show (tableOf [(0x61, [false]), (0x62, [true])]).get (Memory.read aab (0x10 + 2)) ≠ []
    decide +kernel

theorem witness_EncodeWritesTheContainer :
    ∃ (table payload : List Byte) (pad : Nat),
      (encodeCase 15).latch.RegionsLegal ∧
      (∀ i, i < (encodeCase 15).latch.srcLen.toNat → (encodeCase 15).code.get ((encodeCase 15).sourceByte i) ≠ []) ∧
      table = serializeTable (encodeCase 15).code ∧
      (payload, pad) = pack ((encodeCase 15).sourceBytes.flatMap (fun x => (encodeCase 15).code.get x)) ∧
      8 + table.length + payload.length ≤ (encodeCase 15).latch.dstCap.toNat :=
  ⟨_, _, _, encodeCase_legal 15 (by decide), encodeCase_coded 15, rfl, rfl, by decide +kernel⟩

theorem witness_EncodeErrorsInOrder :
    ¬ (busyWith [] 0x1000 0x20 0x101F 0x10).latch.RegionsLegal ∧
      (∃ i, i < (busyWith aab 0x10 3 0x20 0).latch.srcLen.toNat ∧
        (busyWith aab 0x10 3 0x20 0).code.get ((busyWith aab 0x10 3 0x20 0).sourceByte i) = []) ∧
      (encodeCase 14).latch.RegionsLegal ∧
      (∀ i, i < (encodeCase 14).latch.srcLen.toNat → (encodeCase 14).code.get ((encodeCase 14).sourceByte i) ≠ []) ∧
      (encodeCase 14).latch.dstCap.toNat < (containerOf (encodeCase 14).code (encodeCase 14).sourceBytes).length := by
  refine ⟨?_, ⟨0, by decide, Table.get_fill _ _⟩, encodeCase_legal 14 (by decide), encodeCase_coded 14,
    by decide +kernel⟩
  unfold Latch.RegionsLegal Latch.SourceInRange Latch.DestInRange Latch.RegionsOverlap
  decide

theorem witness_CompressCountsBuildsAndEncodes :
    ∃ (c : Table Code) (table payload : List Byte) (pad : Nat),
      (encodeCase 15).latch.RegionsLegal ∧
      c = builtCodes (accumulated (Table.fill 0) (encodeCase 15).sourceBytes) ∧
      table = serializeTable c ∧
      (payload, pad) = pack ((encodeCase 15).sourceBytes.flatMap (fun x => c.get x)) ∧
      8 + table.length + payload.length ≤ (encodeCase 15).latch.dstCap.toNat :=
  ⟨_, _, _, _, encodeCase_legal 15 (by decide), rfl, rfl, rfl, by decide +kernel⟩

theorem witness_CompressErrorsInOrder :
    (encodeCase 14).latch.RegionsLegal ∧
      (encodeCase 14).latch.dstCap.toNat <
        (containerOf (builtCodes (accumulated (Table.fill 0) (encodeCase 14).sourceBytes))
          (encodeCase 14).sourceBytes).length ∧
      ¬ (busyWith [] 0 0 0xFFFFFFF0 0x11).latch.RegionsLegal := by
  refine ⟨encodeCase_legal 14 (by decide), by decide +kernel, ?_⟩
  unfold Latch.RegionsLegal Latch.SourceInRange Latch.DestInRange Latch.RegionsOverlap
  decide

theorem witness_CompressOfNothingIsTheEmptyContainer :
    (busyWith aab 0x10 0 0x20 8).latch.RegionsLegal ∧ (busyWith aab 0x10 0 0x20 8).latch.srcLen = 0 ∧
      8 ≤ (busyWith aab 0x10 0 0x20 8).latch.dstCap.toNat := by
  unfold Latch.RegionsLegal Latch.SourceInRange Latch.DestInRange Latch.RegionsOverlap
  decide

theorem witness_CompressContainerLength : ∃ t, exec .compress (encodeCase 15) = .next t ∧ t.errCode = .ok :=
  let ⟨t, h, p⟩ := of_ends (o := exec .compress (encodeCase 15)) (p := fun t => t.errCode == .ok) (by decide +kernel)
  ⟨t, h, by simpa using p⟩

theorem decompressLatch_legal : (⟨7, false, 0x20, 15, 0x80, 3⟩ : Latch).RegionsLegal := by
  unfold Latch.RegionsLegal Latch.SourceInRange Latch.DestInRange Latch.RegionsOverlap
  decide

theorem witness_DecompressInvertsCompress :
    ∃ s t u : State, exec .compress s = .next t ∧ t.errCode = .ok ∧ u.latch.RegionsLegal ∧
      u.latch.srcLen = t.outLen ∧
      (∀ j, j < t.outLen.toNat → u.sourceByte j = Memory.read t.mem (s.latch.dstAddr.toNat + j)) ∧
      s.latch.srcLen.toNat ≤ u.latch.dstCap.toNat := by
  obtain ⟨t, h, p⟩ := of_ends (o := exec .compress (encodeCase 15)) (p := fun t => t.errCode == .ok && t.outLen == 15)
    (by decide +kernel)
  simp only [Bool.and_eq_true, beq_iff_eq] at p
  refine ⟨encodeCase 15, t, { t with latch := ⟨7, false, 0x20, 15, 0x80, 3⟩ }, h, p.1, decompressLatch_legal, p.2.symm,
    fun j _ => rfl, (Nat.le_refl 3 : (3#32).toNat ≤ (3#32).toNat)⟩

/-- A container of "aaaa" (V-C2) at 0x10, and a destination of `cap` bytes. -/
def decodeCase (cap : Word) (last : Byte) (pad : Byte) : State :=
  busyWith (at10 [0, 0, 0, pad, 0, 0, 0, 3, 0x61, 1, 0x30, last]) 0x10 12 0x40 cap

theorem oneCode_serialized : serializeTable oneCode = [0x61, 1, 0x30] := by decide +kernel

theorem oneCode_not_empty : ¬ ∀ x, oneCode.get x = [] := fun h => by
  have := h 0x61
  rw [oneCode_get] at this
  simp at this

theorem decodeCase_holds : (decodeCase 4 0 4).HoldsContainer 4 oneCode [0] := by
  refine ⟨oneCode_codeOk, ?_, by decide, by decide, fun h => absurd h oneCode_not_empty⟩
  rw [oneCode_serialized]
  decide +kernel

theorem witness_ParseHeaderLoadsTheTable :
    (decodeCase 4 0 4).latch.SourceInRange ∧ (decodeCase 4 0 4).HoldsContainer 4 oneCode [0] ∧
      (busyWith [] 0x10 8 0 0).HoldsContainer 0 emptyCode [] :=
  ⟨by unfold Latch.SourceInRange; decide, decodeCase_holds,
    emptyCode_codeOk, by decide +kernel, by decide, by decide, fun _ => rfl⟩

/-- A table of one byte is no serialized table. -/
theorem no_one_byte_table : ¬ ∃ tab, CodeOk tab ∧ serializeTable tab = [0x61] := by
  rintro ⟨tab, _, h⟩
  have hl := congrArg List.length h
  unfold serializeTable at hl
  cases hc : codedEntries tab with
  | nil => simp [hc] at hl
  | cons e es =>
    rw [hc, List.flatMap_cons, List.length_append, entryBytes_length] at hl
    simp at hl
    omega

/-- The clauses of the parser's error order, each at its boundary: 7 bytes; table_len 1 in 8 bytes; padding 8; a table of
one byte; an empty table with a payload; padding 1 without a payload; the empty container. -/
theorem witness_ParserErrorsInOrder :
    (∀ s, ∃ t, exec .parseHeader s = .next t) ∧
      (busyWith [] 0x10 7 0 0).latch.srcLen.toNat < 8 ∧
      ((busyWith (at10 [0, 0, 0, 0, 0, 0, 0, 1]) 0x10 8 0 0).sourceBytes.drop 4 = be32Bytes 1) ∧
      ((busyWith (at10 [0, 0, 0, 8, 0, 0, 0, 0]) 0x10 8 0 0).sourceBytes.take 4 = be32Bytes 8) ∧
      ((busyWith (at10 [0, 0, 0, 0, 0, 0, 0, 1, 0x61]) 0x10 9 0 0).sourceBytes.drop 8).take 1 = [0x61] ∧
      (¬ ∃ tab, CodeOk tab ∧ serializeTable tab = [0x61]) ∧
      CodeOk emptyCode ∧ serializeTable emptyCode = [] ∧
      (busyWith (at10 [0, 0, 0, 0, 0, 0, 0, 0, 0]) 0x10 9 0 0).sourceBytes.drop 8 = [0] ∧
      (busyWith (at10 [0, 0, 0, 1, 0, 0, 0, 0]) 0x10 8 0 0).sourceBytes.drop 8 = [] ∧
      (busyWith [] 0x10 8 0 0).latch.SourceInRange := by
  refine ⟨fun s => ?_, by decide, by decide +kernel, by decide +kernel, by decide +kernel, no_one_byte_table,
    emptyCode_codeOk, by decide +kernel, by decide +kernel, by decide +kernel, by unfold Latch.SourceInRange; decide⟩
  obtain ⟨_, _, h⟩ := exec_answers .parseHeader s
  exact ⟨_, h⟩

theorem witness_HeaderFieldsStandWhateverFails :
    (∃ t, exec .parseHeader (busyWith [] 0x10 8 0 0) = .next t) ∧ (busyWith [] 0x10 8 0 0).latch.SourceInRange ∧
      8 ≤ (busyWith [] 0x10 8 0 0).latch.srcLen.toNat ∧ (busyWith [] 0x10 7 0 0).latch.srcLen.toNat < 8 ∧
      (∃ t, exec .decompress (decodeCase 4 0 4) = .next t) ∧ (decodeCase 4 0 4).latch.RegionsLegal := by
  refine ⟨?_, by unfold Latch.SourceInRange; decide, by decide, by decide, ?_, ?_⟩
  · obtain ⟨_, _, h⟩ := exec_answers .parseHeader (busyWith [] 0x10 8 0 0)
    exact ⟨_, h⟩
  · obtain ⟨_, _, h⟩ := exec_answers .decompress (decodeCase 4 0 4)
    exact ⟨_, h⟩
  · unfold Latch.RegionsLegal Latch.SourceInRange Latch.DestInRange Latch.RegionsOverlap
    decide

theorem witness_CodeAfterParserErrors :
    (∃ t, exec .parseHeader (busyWith [] 0x10 7 0 0) = .next t ∧ t.errCode = .malformedHeader) ∧
      (∃ t, exec .parseHeader (busyWith [] 0xFFFFFFFF 2 0 0) = .next t ∧ t.errCode = .region) ∧
      ∃ t, exec .decompress (decodeCase 4 0x80 7) = .next t ∧ t.errCode = .unresolvableBits := by
  obtain ⟨_, h1, e1⟩ := of_ends (o := exec .parseHeader (busyWith [] 0x10 7 0 0))
    (p := fun t => t.errCode == .malformedHeader) (by decide +kernel)
  obtain ⟨_, h2, e2⟩ := of_ends (o := exec .parseHeader (busyWith [] 0xFFFFFFFF 2 0 0))
    (p := fun t => t.errCode == .region) (by decide +kernel)
  obtain ⟨_, h3, e3⟩ := of_ends (o := exec .decompress (decodeCase 4 0x80 7))
    (p := fun t => t.errCode == .unresolvableBits) (by decide +kernel)
  exact ⟨⟨_, h1, by simpa using e1⟩, ⟨_, h2, by simpa using e2⟩, _, h3, by simpa using e3⟩

theorem decodeCase_legal (cap : Word) (last pad : Byte) (h : cap.toNat ≤ 4) :
    (decodeCase cap last pad).latch.RegionsLegal := by
  unfold Latch.RegionsLegal Latch.SourceInRange Latch.DestInRange Latch.RegionsOverlap
  have h1 : (decodeCase cap last pad).latch = ⟨0, false, 0x10, 12, 0x40, cap⟩ := rfl
  rw [h1]
  simp
  omega

/-- Four zero bits are four times the code of 0x61. -/
theorem four_zero_bits :
    (∀ x ∈ List.replicate 4 (0x61#8), oneCode.get x ≠ []) ∧
      (unpack [0]).take (8 * [(0 : Byte)].length - 4) =
        (List.replicate 4 (0x61#8)).flatMap (fun x => oneCode.get x) := by
  constructor
  · intro x hx
    rw [List.eq_of_mem_replicate hx, oneCode_get]
    simp
  · decide +kernel

theorem witness_DecompressWritesTheSymbols :
    (decodeCase 4 0 4).latch.RegionsLegal ∧ (decodeCase 4 0 4).HoldsContainer 4 oneCode [0] ∧
      (∀ x ∈ List.replicate 4 (0x61#8), oneCode.get x ≠ []) ∧
      (unpack [0]).take (8 * [(0 : Byte)].length - 4) =
        (List.replicate 4 (0x61#8)).flatMap (fun x => oneCode.get x) ∧
      (List.replicate 4 (0x61#8)).length ≤ (decodeCase 4 0 4).latch.dstCap.toNat :=
  ⟨decodeCase_legal 4 0 4 (by decide), decodeCase_holds, four_zero_bits.1, four_zero_bits.2, by decide⟩

/-- The one bit 1 is no concatenation of codes of the table 0x61 = 0. -/
theorem one_is_no_code :
    ¬ ∃ out : List Byte, (∀ x ∈ out, oneCode.get x ≠ []) ∧
      (unpack [0x80]).take (8 * [(0x80 : Byte)].length - 7) = out.flatMap (fun x => oneCode.get x) := by
  rintro ⟨out, hc, h⟩
  have hb : (unpack [0x80]).take (8 * [(0x80 : Byte)].length - 7) = [true] := by decide +kernel
  rw [hb] at h
  cases out with
  | nil => simp at h
  | cons x rest =>
    have hx := hc x List.mem_cons_self
    rw [oneCode_get] at hx
    by_cases hx1 : x = 0x61#8
    · rw [List.flatMap_cons, oneCode_get, if_pos hx1] at h
      simp at h
    · exact absurd (if_neg hx1) hx

theorem witness_DecompressErrorsAfterTheParse :
    ¬ (busyWith [] 0x1000 0x20 0x101F 0x10).latch.RegionsLegal ∧
      (decodeCase 4 0x80 7).latch.RegionsLegal ∧ (decodeCase 4 0x80 7).HoldsContainer 7 oneCode [0x80] ∧
      (¬ ∃ out : List Byte, (∀ x ∈ out, oneCode.get x ≠ []) ∧
        (unpack [0x80]).take (8 * [(0x80 : Byte)].length - 7) = out.flatMap (fun x => oneCode.get x)) ∧
      (decodeCase 3 0 4).latch.RegionsLegal ∧ (decodeCase 3 0 4).HoldsContainer 4 oneCode [0] ∧
      (decodeCase 3 0 4).latch.dstCap.toNat < (List.replicate 4 (0x61#8)).length := by
  refine ⟨?_, decodeCase_legal 4 0x80 7 (by decide), ⟨oneCode_codeOk, ?_, by decide, by decide,
    fun h => absurd h oneCode_not_empty⟩, one_is_no_code, decodeCase_legal 3 0 4 (by decide), decodeCase_holds,
    by decide⟩
  · unfold Latch.RegionsLegal Latch.SourceInRange Latch.DestInRange Latch.RegionsOverlap
    decide
  · rw [oneCode_serialized]
    decide +kernel

theorem witness_CommandsWriteOnlyTheDestination :
    (∃ t, exec .compress (encodeCase 15) = .next t ∧ t.errCode = .ok) ∧
      (encodeCase 15).latch.OutsideDest 0x2F ∧ (∃ t, exec .nop (encodeCase 15) = .next t) ∧
      ∃ t, exec (.illegal 8 0) (encodeCase 15) = .next t ∧ t.errCode = .illegalCmd :=
  ⟨witness_CompressContainerLength, by unfold Latch.OutsideDest; decide, ⟨_, rfl⟩, _, rfl, rfl⟩

theorem witness_CommandsReadOnlyTheSource :
    (∀ j, j < (encodeCase 15).latch.srcLen.toNat →
        Memory.read (Memory.write aab 0x13 7) ((encodeCase 15).latch.srcAddr.toNat + j) =
          Memory.read (encodeCase 15).mem ((encodeCase 15).latch.srcAddr.toNat + j)) ∧
      ∃ t, exec .compress (encodeCase 15) = .next t ∧ t.errCode = .ok := by
  refine ⟨fun j hj => ?_, witness_CompressContainerLength⟩
  have : (encodeCase 15).latch.srcAddr.toNat = 0x10 := rfl
  have hj' : j < 3 := hj
  rw [Memory.read_write, if_neg (by omega)]
  rfl

theorem witness_CommandsReadOnlyTheLatchedParameters (i : Instr) : ∃ t, exec i (encodeCase 15) = .next t :=
  let ⟨_, _, h⟩ := exec_answers i (encodeCase 15)
  ⟨_, h⟩

theorem witness_RegistersStandAtTheirOffsets :
    Reg.id.offset = some 0 ∧ (Reg.freq 255).offset = some 0x7FC ∧ (Reg.codeBits 255 7).offset = some 0x2FFC ∧
      regAt 0x01C = .reserved ∧ regAt 0x3FC = .reserved ∧ regAt 0xC00 = .reserved ∧ regAt 0xFFC = .reserved := by
  decide

/-- One witness for each clause of the register writes, the first and the last FREQ entry among them. -/
theorem witness_HostWriteChangesOnlyTheRegisterWritten :
    (∀ off ∈ [0x014, 0x018, 0x020, 0x024, 0x028, 0x02C, 0x400, 0x7FC, 0x2FFC],
      off < 0x3000 ∧ off % 4 = 0 ∧ off ≠ 0x008 ∧ off ≠ 0x00C) ∧
      0x400 = 0x400 + 4 * (0 : Byte).toNat ∧ 0x7FC = 0x400 + 4 * (255 : Byte).toNat ∧
      (0#32).getLsbD 0 = false ∧ (0xFFFFFFFE#32).getLsbD 0 = false ∧ 0x3000 ≤ 0x3000 ∧
      ∀ w off v, { State.reset with events := [.host (.wr w off v)] }.events = [.host (.wr w off v)] :=
  ⟨by decide, by decide, by decide, by decide, by decide, by decide, fun _ _ _ => rfl⟩

/-- Idle and busy, at the first and the last offset of each clause; a memory read at the last address, idle, and just
outside a busy destination; a register read outside the window. -/
theorem witness_HostReadHasNoSideEffect :
    (∀ off ∈ [0x000, 0x004, 0x008, 0x00C, 0x010, 0x014, 0x018, 0x01C, 0x020, 0x02C, 0x030, 0x03C, 0x040, 0x3FC, 0x400,
      0x7FC, 0x800, 0xBFC, 0xC00, 0xFFC, 0x1000, 0x2FFC], off < 0x3000 ∧ off % 4 = 0) ∧
      0x2FFC = 0x1000 + 32 * (255 : Byte).toNat + 4 * (7 : Fin 8).val ∧
      State.reset.busy = false ∧ (encodeCase 15).busy = true ∧ regAt 0x040 = .reserved ∧
      (∀ w off, { State.reset with events := [.host (.rd w off)] }.events = [.host (.rd w off)]) ∧
      (∀ a, { encodeCase 15 with events := [.host (.memr a)] }.events = [.host (.memr a)]) ∧
      (encodeCase 15).latch.OutsideDest (0x2F#32).toNat ∧ 0x3000 ≤ 0x3000 :=
  ⟨by decide, by decide, rfl, rfl, by decide, fun _ _ => rfl, fun _ => rfl, by unfold Latch.OutsideDest; decide,
    by decide⟩

theorem witness_RefusedAccessOnlySetsTheMark :
    0x2FFE < 0x3000 ∧ ((32 : Nat) ≠ 32 ∨ 0x2FFE % 4 ≠ 0) ∧ ((16 : Nat) ≠ 32 ∨ 0x010 % 4 ≠ 0) ∧
      (∀ v, { State.reset with events := [.host (.wr 32 0x2FFE v)] }.events = [.host (.wr 32 0x2FFE v)]) ∧
      { State.reset with events := [.host (.rd 16 0x010)] }.events = [.host (.rd 16 0x010)] :=
  ⟨by decide, by decide, by decide, fun _ => rfl, rfl⟩

theorem witness_SoftAndHardwareResetGiveTheResetState :
    (1#32).getLsbD 0 = true ∧
      { encodeCase 15 with events := [.host (.wr 32 0x008 1)] }.events = [.host (.wr 32 0x008 1)] ∧
      { encodeCase 15 with events := [.rst] }.events = [.rst] ∧ State.reset.busy = false := ⟨by decide, rfl, rfl, rfl⟩

theorem witness_HostMemoryWriteIntoALatchedRegionSetsRace :
    { encodeCase 15 with events := [.host (.memw 0xFFFFFFFF 1)] }.events = [.host (.memw 0xFFFFFFFF 1)] := rfl

/-- A reset with both marks set, a host byte write to the last byte of a latched source, and a refused read. -/
theorem witness_MarksAreSetByTheirEventsAndNeverCleared :
    (∃ t, step { State.reset with race := true, refused := true, events := [.rst] } = .next t) ∧
      (∃ t, step { encodeCase 15 with events := [.host (.memw 0x12 1)] } = .next t) ∧
      ∃ t, step { State.reset with events := [.host (.rd 32 0x2FFE)] } = .next t := ⟨⟨_, rfl⟩, ⟨_, rfl⟩, _, rfl⟩

theorem witness_StatusWordBits :
    { State.reset with events := [.host (.wr 32 0x010 7)] }.events = [.host (.wr 32 0x010 7)] := rfl

/-- Two bits written in three calls, one of them empty. -/
theorem witness_PackLengthPaddingAndBits :
    0 < (pack [true, false]).1.length ∧ [[true], [], [false]].flatten = [true, false] := by
  decide

/-- The enabled done interrupt of V-K2. -/
theorem witness_NopOnlyCompletes : { State.reset with irqEn := 1 }.irqEn.getLsbD 0 = true := by decide

theorem witness_CompletionWinsOverIrqClear :
    ∃ t, step { busyWith [] 0 0 0 0 with events := [.engineMeetsIrqWrite 3] } = .next t := ⟨_, rfl⟩

theorem witness_IrqAfterACompletion : ∃ t, exec .nop State.reset = .next t := ⟨_, rfl⟩

theorem witness_CodeBitsViewIsMsbFirst : 31 ≤ 31 ∧ 32 * (0 : Fin 8).val + 0 < (oneCode.get 0x61).length := by
  rw [oneCode_get]
  decide

/-- A busy machine in the invariant, one step from completion. -/
theorem witness_StepKeepsTheInvariant :
    (State.reset.accept 0).Inv ∧ ∃ t, step (State.reset.accept 0) = .next t := by
  refine ⟨⟨rfl, emptyCode_codeOk, by decide, fun _ => ⟨rfl, rfl, rfl, rfl, rfl⟩, fun h => ?_, fun h => ?_⟩, _, rfl⟩
  · exact absurd h (by decide)
  · exact absurd h (by decide)

/-- A busy machine whose host reads outside the window and then waits. -/
theorem witness_BusyMachineComesToRest :
    ∃ s t : State, s.busy = true ∧ s.events = [.host (.rd 32 0x3000), .host .wait] ∧ step s = .next t :=
  ⟨{ busyWith [] 0 0 0 0 with events := [.host (.rd 32 0x3000), .host .wait] }, _, rfl, rfl, rfl⟩

end Sys2Proof.Tests
end

section
/-! Code tables that satisfy `CodeOk` (10_state R55): one made of a list of entries, the empty one, and the one the
parser reads. -/

namespace Sys2Proof.Machine

/-- Neither entry's code is a prefix of the other's. -/
def Incomparable (e f : Byte × Code) : Prop := ¬ e.2 <+: f.2 ∧ ¬ f.2 <+: e.2

theorem Incomparable.symm {e f : Byte × Code} (h : Incomparable e f) : Incomparable f e := ⟨h.2, h.1⟩

/-- What `tableOf` gives a symbol is no code, or the code of an entry of the list. -/
theorem tableOf_get_cases (l : List (Byte × Code)) (x : Byte) :
    (tableOf l).get x = [] ∨ (x, (tableOf l).get x) ∈ l := by
  rw [tableOf_get]
  cases h : l.lookup x with
  | none => exact .inl rfl
  | some c =>
    obtain ⟨before, after, hl, -⟩ := List.lookup_eq_some_iff.mp h
    exact .inr (by simp [hl])

theorem prefixFree_tableOf {l : List (Byte × Code)} (h : l.Pairwise Incomparable) : PrefixFree (tableOf l) := by
  intro x y hxy hx hy
  have hsymm : Std.Symm Incomparable := ⟨fun _ _ => Incomparable.symm⟩
  have hx' := (tableOf_get_cases l x).resolve_left hx
  have hy' := (tableOf_get_cases l y).resolve_left hy
  exact (h.forall hx' hy' (fun e => hxy (congrArg Prod.fst e))).1

theorem codeOk_tableOf {l : List (Byte × Code)} (h : l.Pairwise Incomparable) (hlen : ∀ e ∈ l, e.2.length ≤ 255) :
    CodeOk (tableOf l) := by
  refine ⟨prefixFree_tableOf h, fun x => ?_⟩
  rcases tableOf_get_cases l x with hx | hx
  · simp [hx]
  · exact hlen _ hx

theorem codeOk_emptyCode : CodeOk emptyCode :=
  ⟨fun x _ _ hx => absurd (Table.get_emptyCode x) hx, fun x => by simp⟩

theorem codedEntries_emptyCode : codedEntries emptyCode = [] :=
  List.eq_nil_iff_forall_not_mem.mpr fun e he => by
    obtain ⟨hget, hne⟩ := (mem_codedEntries emptyCode e.1 e.2).mp he
    exact hne (hget ▸ Table.get_emptyCode _)

/-! ### The parser's table -/

theorem isPrefix_iff (u v : Code) : isPrefix u v = true ↔ u <+: v := List.isPrefixOf_iff_prefix

/-- PrefixCheck says that the entries are pairwise incomparable (44_decoder R256). -/
theorem entriesPrefixFree_iff (es : List (Byte × Code)) :
    entriesPrefixFree es = true ↔ es.Pairwise Incomparable := by
  induction es with
  | nil => simp [entriesPrefixFree]
  | cons e rest ih =>
    simp [entriesPrefixFree, ih, Incomparable, ← Bool.not_eq_true, isPrefix_iff]

/-- A row of digits spells a code of its own length. -/
theorem digitsCode_length {ds : List Byte} {c : Code} (h : digitsCode ds = some c) : c.length = ds.length := by
  induction ds generalizing c with
  | nil => simp_all [digitsCode]
  | cons d ds ih =>
    simp only [digitsCode, List.mapM_cons, Option.bind_eq_bind, Option.bind_eq_some_iff, Option.pure_def,
      Option.some.injEq] at h
    obtain ⟨b, -, c', hc', rfl⟩ := h
    simp [ih hc']

/-- The first entry of a table that parses, and the rest of it. -/
theorem parseEntries_cons {k : Nat} {prev : Option Byte} {x len : Byte} {rest : List Byte}
    {es : List (Byte × Code)} (h : parseEntries (k + 1) prev (x :: len :: rest) = some es) :
    ∃ c es', es = (x, c) :: es' ∧ digitsCode (rest.take len.toNat) = some c ∧
      parseEntries k (some x) (rest.drop len.toNat) = some es' := by
  rw [parseEntries] at h
  split at h
  · cases hc : digitsCode (rest.take len.toNat) <;> cases hes : parseEntries k (some x) (rest.drop len.toNat) <;>
      simp_all
  · cases h

/-- Every code of a parsed table fits its length byte. -/
theorem parseEntries_length {fuel : Nat} {prev : Option Byte} {t : List Byte} {es : List (Byte × Code)}
    (h : parseEntries fuel prev t = some es) : ∀ e ∈ es, e.2.length ≤ 255 := by
  induction fuel generalizing prev t es with
  | zero => cases t <;> simp_all [parseEntries]
  | succ k ih =>
    match t with
    | [] => simp_all [parseEntries]
    | [_] => simp [parseEntries] at h
    | x :: len :: rest =>
      obtain ⟨c, es', rfl, hc, hes⟩ := parseEntries_cons h
      have hlen : c.length ≤ 255 := by
        have hbyte := len.isLt
        have htake := List.length_take_le len.toNat rest
        rw [digitsCode_length hc]
        omega
      exact List.forall_mem_cons.mpr ⟨hlen, ih hes⟩

/-- A table the parser accepts may stand in CODE (44_decoder R254 to R256; 10_state R55). -/
theorem codeOk_of_parseTable {t : List Byte} {tab : Table Code} (h : parseTable t = some tab) : CodeOk tab := by
  unfold parseTable at h
  cases hes : parseEntries t.length none t with
  | none => simp [hes] at h
  | some es =>
    simp only [hes, Option.ite_none_right_eq_some, Option.some.injEq] at h
    obtain ⟨hfree, rfl⟩ := h
    exact codeOk_tableOf ((entriesPrefixFree_iff es).mp hfree) (parseEntries_length hes)

theorem codeOk_of_parseContainer {c : List Byte} {p : Parsed} (h : parseContainer c = .ok p) : CodeOk p.table := by
  unfold parseContainer at h
  repeat' split at h
  all_goals cases h
  exact codeOk_of_parseTable ‹_›

end Sys2Proof.Machine
end

section
/-! The table BUILD_CODES makes satisfies `CodeOk`: merging keeps the leaves, and the paths to distinct leaves part at a
node (41_tree_and_codes R173 to R178). -/

namespace Sys2Proof.Machine

/-- The symbols at a tree's leaves, left to right. -/
def Tree.leaves : Tree → List Byte
  | .leaf x => [x]
  | .node l r => l.leaves ++ r.leaves

/-- The symbols at the leaves of a whole working list. -/
def forestLeaves (l : List Entry) : List Byte := l.flatMap (fun e => e.tree.leaves)

theorem Tree.leaves_length_pos (t : Tree) : 0 < t.leaves.length := by
  induction t with
  | leaf x => simp [Tree.leaves]
  | node l r ihl _ => simp only [Tree.leaves, List.length_append]; omega

theorem insertLeaf_perm (x : Nat × Byte) (l : List (Nat × Byte)) : (insertLeaf x l).Perm (x :: l) := by
  induction l with
  | nil => exact .refl _
  | cons y rest ih =>
    rw [insertLeaf]
    split
    · exact .refl _
    · exact (ih.cons y).trans (.swap x y rest)

/-- Sorting moves no leaf in or out. -/
theorem presentLeaves_perm (freq : Table Word) :
    (presentLeaves freq).Perm ((freq.pairs.filter (fun e => e.2 != 0)).map (fun e => (e.2.toNat, e.1))) := by
  unfold presentLeaves
  generalize (freq.pairs.filter (fun e => e.2 != 0)).map (fun e => (e.2.toNat, e.1)) = l
  induction l with
  | nil => exact .refl _
  | cons x l ih => exact (insertLeaf_perm x _).trans (ih.cons x)

theorem forestLeaves_initialList (freq : Table Word) :
    forestLeaves (initialList freq) = (presentLeaves freq).map Prod.snd := by
  rw [forestLeaves, initialList, List.flatMap_map, List.map_eq_flatMap]
  rfl

theorem insertEntry_perm (l : List Entry) (n : Entry) : (insertEntry l n).Perm (n :: l) := by
  have h : (insertEntry l n).Perm (n :: (l.take (insertPos l n.weight) ++ l.drop (insertPos l n.weight))) :=
    List.perm_middle
  rwa [List.take_append_drop] at h

/-- A merge step keeps the leaves: two trees go under one node. -/
theorem forestLeaves_mergeStep (l : List Entry) : (forestLeaves (mergeStep l)).Perm (forestLeaves l) := by
  match l with
  | [] => exact .refl _
  | [_] => exact .refl _
  | a :: b :: rest =>
    have h := (insertEntry_perm rest ⟨a.weight + b.weight, .node a.tree b.tree⟩).flatMap_right (fun e => e.tree.leaves)
    simpa [forestLeaves, mergeStep, Tree.leaves] using h

theorem forestLeaves_mergeSteps (n : Nat) (l : List Entry) :
    (forestLeaves (mergeSteps n l)).Perm (forestLeaves l) := by
  induction n generalizing l with
  | zero => exact .refl _
  | succ k ih => exact (ih (mergeStep l)).trans (forestLeaves_mergeStep l)

theorem leaves_length_le_forestLeaves {e : Entry} {l : List Entry} (h : e ∈ l) :
    e.tree.leaves.length ≤ (forestLeaves l).length := by
  rw [forestLeaves, List.flatMap_def]
  have hmem : e.tree.leaves ∈ l.map (fun e => e.tree.leaves) := List.mem_map_of_mem h
  exact (List.sublist_flatten_of_mem hmem).length_le

/-- A built tree has at most one leaf a symbol. -/
theorem buildTree_leaves_length {freq : Table Word} {t : Tree} (h : buildTree freq = some t) :
    t.leaves.length ≤ 256 := by
  obtain ⟨e, he, rfl⟩ := Option.map_eq_some_iff.mp h
  have hsub := leaves_length_le_forestLeaves (List.mem_of_head? he)
  have hpairs : freq.pairs.length = 256 := by simp [Table.pairs_eq, symbols_length]
  have hfilter := List.length_filter_le (fun e : Byte × Word => e.2 != 0) freq.pairs
  rw [(forestLeaves_mergeSteps _ _).length_eq, forestLeaves_initialList, List.length_map,
    (presentLeaves_perm freq).length_eq, List.length_map] at hsub
  omega

/-- A leaf's path goes on from the path to its tree. -/
theorem prefix_of_mem_leafPaths {t : Tree} {path : Code} {e : Byte × Code} (h : e ∈ leafPaths t path) :
    path <+: e.2 := by
  induction t generalizing path with
  | leaf x => simp_all [leafPaths]
  | node l r ihl ihr =>
    rcases List.mem_append.mp h with h | h
    · exact (List.prefix_append ..).trans (ihl h)
    · exact (List.prefix_append ..).trans (ihr h)

/-- A path is shorter than the count of leaves below its start. -/
theorem leafPaths_length {t : Tree} {path : Code} {e : Byte × Code} (h : e ∈ leafPaths t path) :
    e.2.length < path.length + t.leaves.length := by
  induction t generalizing path with
  | leaf x => simp_all [leafPaths, Tree.leaves]
  | node l r ihl ihr =>
    have hl := l.leaves_length_pos
    have hr := r.leaves_length_pos
    simp only [Tree.leaves, List.length_append]
    rcases List.mem_append.mp h with h | h
    · have := ihl h
      simp only [List.length_append, List.length_singleton] at this
      omega
    · have := ihr h
      simp only [List.length_append, List.length_singleton] at this
      omega

/-- Bit sequences that go on from one path by different bits are incomparable. -/
theorem not_prefix_of_branches {path u v : Code} {a b : Bool} (hab : a ≠ b) (hu : path ++ [a] <+: u)
    (hv : path ++ [b] <+: v) : ¬ u <+: v := by
  intro huv
  have h := List.prefix_of_prefix_length_le (hu.trans huv) hv (by simp)
  exact hab (by simpa using h)

/-- The paths to distinct leaves part at some node (41_tree_and_codes R186). -/
theorem leafPaths_incomparable (t : Tree) (path : Code) : (leafPaths t path).Pairwise Incomparable := by
  induction t generalizing path with
  | leaf x => simp [leafPaths]
  | node l r ihl ihr =>
    refine List.pairwise_append.mpr ⟨ihl _, ihr _, fun e he f hf => ?_⟩
    have he := prefix_of_mem_leafPaths he
    have hf := prefix_of_mem_leafPaths hf
    exact ⟨not_prefix_of_branches (by decide) he hf, not_prefix_of_branches (by decide) hf he⟩

theorem codeOk_assignCodes {t : Tree} (h : t.leaves.length ≤ 256) : CodeOk (assignCodes (some t)) := by
  cases t with
  | leaf x => exact codeOk_tableOf (List.pairwise_singleton ..) (by simp)
  | node l r =>
    refine codeOk_tableOf (leafPaths_incomparable ..) (fun e he => ?_)
    have := leafPaths_length he
    simp only [List.length_nil] at this
    omega

/-- What BUILD_CODES makes of any FREQ may stand in CODE (41_tree_and_codes R182, R186; 10_state R55). -/
theorem codeOk_builtCodes (freq : Table Word) : CodeOk (builtCodes freq) := by
  unfold builtCodes
  cases h : buildTree freq with
  | none => exact codeOk_emptyCode
  | some t => exact codeOk_assignCodes (buildTree_leaves_length h)

end Sys2Proof.Machine
end
section
/-! What a command's work can change before it completes: one lemma over the nine commands, from which the invariant,
the marks and the interrupt bits follow. -/

namespace Sys2Proof.Machine

/-- `u` is `s` after some of a command's work: only these fields may differ. -/
def Worked (s u : State) : Prop :=
  u = { s with
    outLen := u.outLen
    padCount := u.padCount
    tableLen := u.tableLen
    freq := u.freq
    sat := u.sat
    code := u.code
    mem := u.mem
    draws := u.draws }

theorem Worked.trans {s u v : State} (h : Worked s u) (k : Worked u v) : Worked s v := by
  unfold Worked at *
  rw [k, h]

section
variable {s u : State}

theorem Worked.irqEn_eq (h : Worked s u) : u.irqEn = s.irqEn := (congrArg State.irqEn h).trans rfl
theorem Worked.irqStatus_eq (h : Worked s u) : u.irqStatus = s.irqStatus := (congrArg State.irqStatus h).trans rfl
theorem Worked.race_eq (h : Worked s u) : u.race = s.race := (congrArg State.race h).trans rfl
theorem Worked.refused_eq (h : Worked s u) : u.refused = s.refused := (congrArg State.refused h).trans rfl

end

/-- A command that ends with code `e` does work from `s` to `u` that keeps memory and CODE legal, and writes OUT_LEN
only when it succeeds (10_state R47, R55). -/
structure WorkEnds (e : ErrCode) (s u : State) : Prop where
  worked : Worked s u
  mem : Memory.wf s.mem = true → Memory.wf u.mem = true
  code : CodeOk s.code → CodeOk u.code
  outLen : e ≠ .ok → u.outLen = s.outLen

theorem WorkEnds.trans {e : ErrCode} {s u v : State} (h : WorkEnds e s u) (k : WorkEnds e u v) : WorkEnds e s v :=
  ⟨h.worked.trans k.worked, k.mem ∘ h.mem, k.code ∘ h.code, fun he => (k.outLen he).trans (h.outLen he)⟩

/-! ### The pieces a command's work is made of -/

section
variable (e : ErrCode) (s : State)

theorem workEnds_refl : WorkEnds e s s := ⟨rfl, id, id, fun _ => rfl⟩

theorem workEnds_withFreq (f : Table Word) (sat : Bool) : WorkEnds e s (s.withFreq f sat) :=
  ⟨rfl, id, id, fun _ => rfl⟩

theorem workEnds_withHeader (pad tl : Word) : WorkEnds e s (s.withHeader pad tl) := ⟨rfl, id, id, fun _ => rfl⟩

theorem workEnds_withCode {t : Table Code} (ht : CodeOk t) : WorkEnds e s (s.withCode t) :=
  ⟨rfl, id, fun _ => ht, fun _ => rfl⟩

theorem workEnds_headerRead (c : List Byte) : WorkEnds e s (s.headerRead c) := by
  unfold State.headerRead
  split
  · exact workEnds_withCode e s codeOk_emptyCode
  · exact (workEnds_withCode e s codeOk_emptyCode).trans (workEnds_withHeader ..)

theorem headerRead_latch (c : List Byte) : (s.headerRead c).latch = s.latch := by
  rw [headerRead_eq]

theorem workEnds_recoded : WorkEnds e s s.recoded :=
  (workEnds_withFreq e s ..).trans (workEnds_withCode e _ (codeOk_builtCodes _))

theorem workEnds_spoilDst (h : s.latch.regionsOk = true) : WorkEnds e s s.spoilDst :=
  ⟨rfl, fun hm => State.spoilDst_wf s hm ((inRange_iff ..).mpr ((regionsOk_iff _).mp h).2.1), id, fun _ => rfl⟩

theorem workEnds_deliver {out : List Byte} (h : s.latch.regionsOk = true) (hfit : out.length ≤ s.latch.dstCap.toNat) :
    WorkEnds .ok s (s.deliver out) :=
  ⟨rfl, fun hm => State.deliver_wf s out hm ((inRange_iff ..).mpr ((regionsOk_iff _).mp h).2.1) hfit, id,
    fun h => absurd rfl h⟩

end

/-! ### Every command -/

theorem workEnds_encodeInto (b : List Byte) (s : State) (h : s.latch.regionsOk = true) :
    ∃ u e, encodeInto b s = .next (u.complete e) ∧ WorkEnds e s u := by
  rcases encodeInto_cases b s with ⟨hfit, hx⟩ | ⟨-, hx⟩
  · exact ⟨_, _, hx, (workEnds_deliver s h hfit).trans (workEnds_withHeader ..)⟩
  · exact ⟨_, _, hx, workEnds_spoilDst _ s h⟩

theorem workEnds_execParseHeader (s : State) :
    ∃ u e, execParseHeader s = .next (u.complete e) ∧ WorkEnds e s u := by
  rcases execParseHeader_cases s with ⟨-, hx⟩ | ⟨-, e, -, hx⟩ | ⟨-, p, hp, hx⟩
  · exact ⟨_, _, hx, workEnds_refl ..⟩
  · exact ⟨_, _, hx, workEnds_headerRead ..⟩
  · exact ⟨_, _, hx, (workEnds_headerRead ..).trans (workEnds_withCode _ _ (codeOk_of_parseContainer hp))⟩

theorem workEnds_execDecompress (s : State) :
    ∃ u e, execDecompress s = .next (u.complete e) ∧ WorkEnds e s u := by
  have parsed : ∀ (e : ErrCode) {p : Parsed}, parseContainer s.sourceBytes = .ok p →
      WorkEnds e s ((s.headerRead s.sourceBytes).withCode p.table) := fun e p hp =>
    (workEnds_headerRead ..).trans (workEnds_withCode _ _ (codeOk_of_parseContainer hp))
  have latch : ∀ c, (s.headerRead c).latch.regionsOk = s.latch.regionsOk := fun c => by rw [headerRead_latch]
  rcases execDecompress_cases s with ⟨-, hx⟩ | ⟨hr, e, -, hx⟩ | ⟨hr, p, hp, ⟨-, hx⟩ | ⟨out, -, ⟨hfit, hx⟩ | ⟨-, hx⟩⟩⟩
  · exact ⟨_, _, hx, workEnds_refl ..⟩
  · exact ⟨_, _, hx, (workEnds_headerRead ..).trans (workEnds_spoilDst _ _ ((latch _).trans hr))⟩
  · exact ⟨_, _, hx, (parsed _ hp).trans (workEnds_spoilDst _ _ ((latch _).trans hr))⟩
  · refine ⟨_, _, hx, (parsed _ hp).trans (workEnds_deliver _ ((latch _).trans hr) ?_)⟩
    rwa [State.withCode_latch, headerRead_latch]
  · exact ⟨_, _, hx, (parsed _ hp).trans (workEnds_spoilDst _ _ ((latch _).trans hr))⟩

/-- Every command works and then completes (60_exceptions R310, R320). -/
theorem exec_workEnds (i : Instr) (s : State) : ∃ u e, exec i s = .next (u.complete e) ∧ WorkEnds e s u := by
  cases i with
  | nop => exact ⟨s, .ok, rfl, workEnds_refl ..⟩
  | illegal o r => exact ⟨s, .illegalCmd, rfl, workEnds_refl ..⟩
  | freqClear => exact ⟨_, _, rfl, workEnds_withFreq ..⟩
  | buildCodes => exact ⟨_, _, rfl, workEnds_withCode _ _ (codeOk_builtCodes _)⟩
  | freqAccum =>
    rcases execFreqAccum_cases s with ⟨-, hx⟩ | ⟨-, hx⟩
    · exact ⟨_, _, hx, workEnds_withFreq ..⟩
    · exact ⟨_, _, hx, workEnds_refl ..⟩
  | encode =>
    rcases execEncode_cases s with ⟨-, hx⟩ | ⟨hr, -, hx⟩ | ⟨hr, -, hx⟩
    · exact ⟨_, _, hx, workEnds_refl ..⟩
    · exact ⟨_, _, hx, workEnds_spoilDst _ _ hr⟩
    · obtain ⟨u, e, hu, hw⟩ := workEnds_encodeInto s.sourceBytes s hr
      exact ⟨u, e, hx.trans hu, hw⟩
  | compress =>
    rcases execCompress_cases s with ⟨-, hx⟩ | ⟨hr, hx⟩
    · exact ⟨_, _, hx, workEnds_refl ..⟩
    · obtain ⟨u, e, hu, hw⟩ := workEnds_encodeInto s.sourceBytes s.recoded hr
      exact ⟨u, e, hx.trans hu, (workEnds_recoded ..).trans hw⟩
  | parseHeader => exact workEnds_execParseHeader s
  | decompress => exact workEnds_execDecompress s

/-- The state a command answers with, taken apart (`exec_workEnds` for a given answer). -/
theorem exec_next {i : Instr} {s t : State} (h : exec i s = .next t) : ∃ u e, t = u.complete e ∧ WorkEnds e s u := by
  obtain ⟨u, e, hx, hw⟩ := exec_workEnds i s
  rw [h] at hx
  exact ⟨u, e, Host.Outcome.next.inj hx, hw⟩

/-- The ENGINE's turn, taken apart: nothing while idle, a command's work and its completion while busy. -/
theorem engineTurn_next {s t : State} (h : engineTurn s = .next t) :
    (s.busy = false ∧ t = s) ∨ (s.busy = true ∧ ∃ u e, t = u.complete e ∧ WorkEnds e s u) := by
  rcases engineTurn_cases s with ⟨hb, hx⟩ | ⟨hb, hx⟩ <;> rw [h] at hx
  · exact .inl ⟨hb, Host.Outcome.next.inj hx⟩
  · exact .inr ⟨hb, exec_next hx.symm⟩

end Sys2Proof.Machine
end
section
/-! The invariant of reachable states: it holds after reset, and the ENGINE, the host and the reset input keep it. -/

namespace Sys2Proof.Machine

theorem ErrCode.isError_iff (e : ErrCode) : e.isError = true ↔ e ≠ .ok := bne_iff_ne

/-- The fields the invariant does not speak of may hold anything. -/
theorem State.Inv.of_other_fields {s t : State} (h : s.Inv)
    (ht : t = { s with
      irqEn := t.irqEn
      srcAddr := t.srcAddr
      srcLen := t.srcLen
      dstAddr := t.dstAddr
      dstCap := t.dstCap
      freq := t.freq
      race := t.race
      refused := t.refused
      draws := t.draws
      events := t.events
      observed := t.observed }) : t.Inv := by
  rw [ht]
  exact ⟨h.mem, h.code, h.err, h.busy, h.outLen, h.fresh⟩

/-! ### The ENGINE and reset -/

/-- A busy machine's command ends in the invariant: OUT_LEN is still 0, as acceptance left it, when it fails. -/
theorem State.Inv.complete {s u : State} {e : ErrCode} (h : s.Inv) (hb : s.busy = true) (hw : WorkEnds e s u) :
    (u.complete e).Inv where
  mem := hw.mem h.mem
  code := hw.code h.code
  err := e.isError_iff
  busy := fun hc => absurd hc (by simp)
  outLen := fun he => by
    obtain ⟨-, -, hout, -, -⟩ := h.busy hb
    exact (hw.outLen (e.isError_iff.mp he)).trans hout
  fresh := fun _ hd => absurd hd (by simp)

theorem State.Inv.engineTurn {s t : State} (h : s.Inv) (hx : engineTurn s = .next t) : t.Inv := by
  rcases engineTurn_next hx with ⟨-, rfl⟩ | ⟨hb, u, e, rfl, hw⟩
  · exact h
  · exact h.complete hb hw

theorem inv_resetWith {m : Memory} (h : Memory.wf m = true) : (State.resetWith m).Inv where
  mem := h
  code := codeOk_emptyCode
  err := iff_of_false Bool.false_ne_true (fun he => he rfl)
  busy := fun hb => absurd hb Bool.false_ne_true
  outLen := fun _ => rfl
  fresh := fun _ _ => ⟨rfl, rfl, rfl, rfl, rfl, rfl, rfl, rfl⟩

theorem inv_resetBlock {s : State} (h : Memory.wf s.mem = true) : s.resetBlock.Inv :=
  (inv_resetWith (resetBlock_wf s h)).of_other_fields rfl

/-! ### The host -/

theorem State.writeReg_ctrl (s : State) (v : Word) :
    s.writeReg .ctrl v = if v.getLsbD 0 then s.resetBlock else s := rfl

theorem State.Inv.clearIrq {s : State} (h : s.Inv) (v : Word) : (s.clearIrq v).Inv where
  mem := h.mem
  code := h.code
  err := h.err
  busy := h.busy
  outLen := h.outLen
  fresh := fun hb hd => by
    obtain ⟨hlatch, hirq, hrest⟩ := h.fresh hb hd
    exact ⟨hlatch, by simp [hirq, irqCleared], hrest⟩

theorem State.Inv.accept {s : State} (h : s.Inv) (v : Word) : (s.accept v).Inv where
  mem := h.mem
  code := h.code
  err := by simp
  busy := fun _ => ⟨rfl, rfl, rfl, rfl, rfl⟩
  outLen := fun _ => rfl
  fresh := fun hb => absurd hb (by simp)

theorem State.Inv.writeCmd {s : State} (h : s.Inv) (v : Word) : (s.writeCmd v).Inv := by
  unfold State.writeCmd
  split
  case isTrue hb =>
    exact ⟨h.mem, h.code, h.err, h.busy, h.outLen, fun hidle => absurd (hb.symm.trans hidle) (by decide)⟩
  case isFalse => exact h.accept v

theorem State.Inv.writeFreq {s : State} (h : s.Inv) (x : Byte) (v : Word) : (s.writeFreq x v).Inv := by
  unfold State.writeFreq
  split
  · exact h
  · exact h.of_other_fields rfl

theorem State.Inv.writeReg {s : State} (h : s.Inv) (r : Reg) (v : Word) : (s.writeReg r v).Inv := by
  cases r with
  | ctrl =>
    rw [State.writeReg_ctrl]
    split
    · exact inv_resetBlock h.mem
    · exact h
  | cmd => exact h.writeCmd v
  | irqStatus => exact h.clearIrq v
  | freq x => exact h.writeFreq x v
  | irqEn => exact h.of_other_fields rfl
  | srcAddr => exact h.of_other_fields rfl
  | srcLen => exact h.of_other_fields rfl
  | dstAddr => exact h.of_other_fields rfl
  | dstCap => exact h.of_other_fields rfl
  | _ => exact h

theorem State.Inv.hostWr {s : State} (h : s.Inv) (w off : Nat) (v : Word) : (s.hostWr w off v).Inv := by
  rcases hostWr_cases s w off v with ⟨-, e⟩ | ⟨-, -, -, e⟩ | ⟨-, -, e⟩ <;> rw [e]
  · exact h
  · exact h.writeReg _ v
  · exact h.of_other_fields rfl

theorem State.Inv.hostRd {s : State} (h : s.Inv) (w off : Nat) : (s.hostRd w off).Inv := by
  rcases hostRd_cases s w off with ⟨-, e⟩ | ⟨-, -, -, e⟩ | ⟨-, -, e⟩ <;> rw [e]
  · exact h.of_other_fields rfl
  · rcases readReg_cases s off with ⟨-, -, e'⟩ | ⟨-, e'⟩ <;> rw [e'] <;> exact h.of_other_fields rfl
  · exact h.of_other_fields rfl

theorem State.Inv.hostMemWrite {s : State} (h : s.Inv) (a : Word) (b : Byte) : (s.hostMemWrite a b).Inv :=
  ⟨hostMemWrite_wf s h.mem a b, h.code, h.err, h.busy, h.outLen, h.fresh⟩

theorem State.Inv.hostMemRead {s : State} (h : s.Inv) (a : Word) : (s.hostMemRead a).Inv := by
  rcases hostMemRead_cases s a with ⟨-, -, e⟩ | ⟨-, e⟩ <;> rw [e] <;> exact h.of_other_fields rfl

theorem State.Inv.rest {s : State} (h : s.Inv) (es : List Event) : (s.rest es).Inv := h.of_other_fields rfl

/-! ### The two statements -/

/-- Settles O58: reset memory is canonical, the empty table is a legal CODE, and every flag and result is 0. -/
theorem resetStateMeetsTheInvariant : Obligations.ResetStateMeetsTheInvariant := inv_resetWith reset_mem_wf

/-- Settles O59: case by case over what a step can be. The ENGINE's case rests on what a command's work keeps
(`exec_workEnds`), and so on the legality of built and parsed code tables. -/
theorem stepKeepsTheInvariant : Obligations.StepKeepsTheInvariant := by
  intro s t h hstep
  rcases step_cases s with ⟨-, e⟩ | ⟨es, -, e⟩ | ⟨v, es, -, e⟩ | ⟨es, -, e⟩ | ⟨w, off, v, es, -, e⟩ |
    ⟨w, off, es, -, e⟩ | ⟨a, b, es, -, e⟩ | ⟨a, es, -, e⟩ | ⟨es, -, -, e⟩ | ⟨es, -, -, e⟩ <;> rw [hstep] at e
  · exact h.engineTurn e.symm
  · exact (h.rest es).engineTurn e.symm
  · exact ((h.rest es).clearIrq v).engineTurn e.symm
  · exact Host.Outcome.next.inj e ▸ inv_resetBlock h.mem
  · exact Host.Outcome.next.inj e ▸ (h.rest es).hostWr w off v
  · exact Host.Outcome.next.inj e ▸ (h.rest es).hostRd w off
  · exact Host.Outcome.next.inj e ▸ (h.rest es).hostMemWrite a b
  · exact Host.Outcome.next.inj e ▸ (h.rest es).hostMemRead a
  · exact h.engineTurn e.symm
  · exact Host.Outcome.next.inj e ▸ h.rest es

end Sys2Proof.Machine
end
section
/-! A step, by the event that stands first. -/

namespace Sys2Proof.Machine

section
variable {s : State} {es : List Event}

theorem step_of_no_event (h : s.events = []) : step s = engineTurn s := by
  simp [step, turn, h]

theorem step_of_engine (h : s.events = .engine :: es) : step s = engineTurn (s.rest es) := by
  simp [step, turn, h]

theorem step_of_engineMeetsIrqWrite {v : Word} (h : s.events = .engineMeetsIrqWrite v :: es) :
    step s = engineTurn ((s.rest es).clearIrq v) := by
  simp [step, turn, h]

theorem step_of_rst (h : s.events = .rst :: es) : step s = .next (s.rest es).resetBlock := by
  simp [step, turn, h]

theorem step_of_host {op : HostOp} (h : s.events = .host op :: es) : step s = hostTurn op es s := by
  simp [step, turn, h]

end

theorem engineTurn_of_busy (s : State) (h : s.busy = true) : engineTurn s = exec s.latchedInstr s := if_pos h

/-- Settles O6: each of the three turns is the ENGINE's, and a busy ENGINE runs the latched command. -/
theorem stepRunsTheLatchedCommand : Obligations.StepRunsTheLatchedCommand := by
  intro s hb
  refine ⟨fun h => ?_, fun es h => ?_, fun es h => ?_⟩
  · rw [step_of_no_event h, engineTurn_of_busy s hb]
  · exact (step_of_engine h).trans (engineTurn_of_busy (s.rest es) hb)
  · have hwait : hostTurn .wait es s = engineTurn s := if_pos hb
    rw [step_of_host h, hwait, engineTurn_of_busy s hb]

end Sys2Proof.Machine
end

section
/-! The marks RACE and REFUSED (10_state R59). -/

namespace Sys2Proof.Machine

/-- Both marks are as they were. -/
def SameMarks (s t : State) : Prop := t.race = s.race ∧ t.refused = s.refused

theorem sameMarks_writeReg (s : State) (r : Reg) (v : Word) : SameMarks s (s.writeReg r v) := by
  cases r with
  | ctrl => rw [State.writeReg_ctrl]; split <;> exact ⟨rfl, rfl⟩
  | cmd => show SameMarks s (s.writeCmd v); unfold State.writeCmd; split <;> exact ⟨rfl, rfl⟩
  | freq x => show SameMarks s (s.writeFreq x v); unfold State.writeFreq; split <;> exact ⟨rfl, rfl⟩
  | _ => exact ⟨rfl, rfl⟩

theorem sameMarks_readReg (s : State) (off : Nat) : SameMarks s (s.readReg off) := by
  rcases readReg_cases s off with ⟨-, -, e⟩ | ⟨-, e⟩ <;> rw [e] <;> exact ⟨rfl, rfl⟩

theorem sameMarks_hostMemRead (s : State) (a : Word) : SameMarks s (s.hostMemRead a) := by
  rcases hostMemRead_cases s a with ⟨-, -, e⟩ | ⟨-, e⟩ <;> rw [e] <;> exact ⟨rfl, rfl⟩

theorem sameMarks_engineTurn {s t : State} (h : engineTurn s = .next t) : SameMarks s t := by
  rcases engineTurn_next h with ⟨-, rfl⟩ | ⟨-, u, e, rfl, hw⟩
  · exact ⟨rfl, rfl⟩
  · exact ⟨hw.worked.race_eq, hw.worked.refused_eq⟩

/-- A host register access leaves RACE, and sets REFUSED exactly if it is narrow or misaligned and in the window. -/
theorem hostWr_marks (s : State) (w off : Nat) (v : Word) :
    (s.hostWr w off v).race = s.race ∧
      ((s.hostWr w off v).refused = true ↔ s.refused = true ∨ (off < 0x3000 ∧ (w ≠ 32 ∨ off % 4 ≠ 0))) := by
  rcases hostWr_cases s w off v with ⟨ho, e⟩ | ⟨ho, hw, hm, e⟩ | ⟨ho, hbad, e⟩ <;> rw [e]
  · simp [Nat.not_lt.mpr ho]
  · obtain ⟨hrace, href⟩ := sameMarks_writeReg s (regAt off) v
    simp [hrace, href, hw, hm]
  · exact ⟨rfl, iff_of_true rfl (.inr ⟨ho, hbad⟩)⟩

theorem hostRd_marks (s : State) (w off : Nat) :
    (s.hostRd w off).race = s.race ∧
      ((s.hostRd w off).refused = true ↔ s.refused = true ∨ (off < 0x3000 ∧ (w ≠ 32 ∨ off % 4 ≠ 0))) := by
  rcases hostRd_cases s w off with ⟨ho, e⟩ | ⟨ho, hw, hm, e⟩ | ⟨ho, hbad, e⟩ <;> rw [e]
  · simp [State.readAny_eq, Nat.not_lt.mpr ho]
  · obtain ⟨hrace, href⟩ := sameMarks_readReg s off
    simp [hrace, href, hw, hm]
  · exact ⟨rfl, iff_of_true rfl (.inr ⟨ho, hbad⟩)⟩

theorem inSource_iff (l : Latch) (a : Nat) :
    l.inSource a = true ↔ l.srcAddr.toNat ≤ a ∧ a < l.srcAddr.toNat + l.srcLen.toNat := by
  simp [Latch.inSource]

theorem inDest_iff (l : Latch) (a : Nat) : l.inDest a = true ↔ ¬ l.OutsideDest a := by
  simp [Latch.inDest, Latch.OutsideDest]

/-- Settles O53: of everything a step can be, only a host byte write can set RACE, and only a host register access can
set REFUSED. -/
theorem marksAreSetByTheirEventsAndNeverCleared : Obligations.MarksAreSetByTheirEventsAndNeverCleared := by
  intro s t hstep
  rcases step_cases s with ⟨he, e⟩ | ⟨es, he, e⟩ | ⟨v, es, he, e⟩ | ⟨es, he, e⟩ | ⟨w, off, v, es, he, e⟩ |
    ⟨w, off, es, he, e⟩ | ⟨a, b, es, he, e⟩ | ⟨a, es, he, e⟩ | ⟨es, he, -, e⟩ | ⟨es, he, -, e⟩ <;> rw [hstep] at e
  · obtain ⟨hrace, href⟩ := sameMarks_engineTurn e.symm
    simp [he, hrace, href]
  · obtain ⟨hrace, href⟩ := sameMarks_engineTurn e.symm
    simp [he, hrace, href]
  · obtain ⟨hrace, href⟩ := sameMarks_engineTurn e.symm
    simp [he, hrace, href]
  · simp [he, Host.Outcome.next.inj e]
  · obtain ⟨hrace, href⟩ := hostWr_marks (s.rest es) w off v
    simp [he, Host.Outcome.next.inj e, hrace, href]
  · obtain ⟨hrace, href⟩ := hostRd_marks (s.rest es) w off
    simp [he, Host.Outcome.next.inj e, hrace, href]
  · simp [he, Host.Outcome.next.inj e, inSource_iff, inDest_iff]
  · obtain ⟨hrace, href⟩ := sameMarks_hostMemRead (s.rest es) a
    simp [he, Host.Outcome.next.inj e, hrace, href]
  · obtain ⟨hrace, href⟩ := sameMarks_engineTurn e.symm
    simp [he, hrace, href]
  · simp [he, Host.Outcome.next.inj e]

end Sys2Proof.Machine
end

section
/-! Soft and hardware reset, and what an abort leaves (70_reset R350 to R353). -/

namespace Sys2Proof.Machine

/-- An abort touches memory inside the latched destination region only (70_reset R353). -/
theorem aborted_read_outside (s : State) {a : Nat} (h : s.latch.OutsideDest a) :
    Memory.read s.aborted.mem a = Memory.read s.mem a := by
  unfold State.aborted
  split
  · exact State.spoilDst_read_outside s a (by simpa [inDest_iff, ← Bool.not_eq_true] using h)
  · rfl

/-- What an abort needs: a busy machine, legal regions and a command that writes its destination (70_reset R353). -/
theorem abortSpoils_iff (s : State) :
    s.abortSpoils = true ↔ s.busy = true ∧ s.latch.RegionsLegal ∧
      (s.latchedInstr = .encode ∨ s.latchedInstr = .compress ∨ s.latchedInstr = .decompress) := by
  have hr : s.latch.regionsOk = true ↔ s.latch.RegionsLegal := regionsOk_iff s.latch
  simp [State.abortSpoils, hr, and_assoc, or_assoc]

theorem aborted_eq_self (s : State) (h : s.busy = false ∨ ¬ s.latch.RegionsLegal ∨
    (s.latchedInstr ≠ .encode ∧ s.latchedInstr ≠ .compress ∧ s.latchedInstr ≠ .decompress)) : s.aborted = s := by
  refine if_neg fun hs => ?_
  obtain ⟨hb, hr, hi⟩ := (abortSpoils_iff s).mp hs
  rcases h with h | h | ⟨h1, h2, h3⟩
  · exact absurd (hb.symm.trans h) (by decide)
  · exact h hr
  · exact hi.elim h1 (·.elim h2 h3)

/-- A soft reset and the reset input are the same step (70_reset R350, R352). -/
theorem step_of_reset {s : State} {es : List Event}
    (h : (∃ v : Word, v.getLsbD 0 = true ∧ s.events = .host (.wr 32 0x008 v) :: es) ∨ s.events = .rst :: es) :
    step s = .next (s.rest es).resetBlock := by
  rcases h with ⟨v, hv, he⟩ | he
  · have hctrl : (s.rest es).writeReg .ctrl v = (s.rest es).resetBlock := if_pos hv
    exact (step_of_host he).trans (congrArg Host.Outcome.next hctrl)
  · exact step_of_rst he

/-- Settles O51: either reset is `resetBlock`, which keeps of the old state the marks, the host's side and the memory an
abort leaves. -/
theorem softAndHardwareResetGiveTheResetState : Obligations.SoftAndHardwareResetGiveTheResetState := by
  intro s es h
  refine ⟨(s.rest es).resetBlock, step_of_reset h, rfl, ⟨rfl, rfl, rfl, rfl, rfl, rfl⟩, ⟨rfl, rfl, rfl, rfl, rfl, rfl⟩,
    ⟨rfl, rfl, rfl, rfl, rfl, rfl⟩, ⟨rfl, rfl, rfl, congrArg List.length codedEntries_emptyCode⟩, by simp, by simp,
    by simp [State.irq], fun a ha => ?_, fun hno => ?_⟩
  · exact aborted_read_outside (s.rest es) ha
  · rw [State.resetBlock_mem, aborted_eq_self (s.rest es) hno, State.rest_mem]

end Sys2Proof.Machine
end

section
/-! The interrupt bits a completion sets, and irq (10_state R42, R58). -/

namespace Sys2Proof.Machine

theorem ErrCode.isError_eq (e : ErrCode) : e.isError = decide (e ≠ .ok) := by
  rw [Bool.eq_iff_iff, e.isError_iff, decide_eq_true_iff]

/-- DONE_IS after a completion. -/
theorem complete_irqStatus_done (u : State) (e : ErrCode) : (u.complete e).irqStatus.getLsbD 0 = true := by
  rw [State.complete_irqStatus, completionIrqBits]
  split <;> simp

/-- ERR_IS after a completion: set by an error, else as it was (10_state R42). -/
theorem complete_irqStatus_err (u : State) (e : ErrCode) :
    (u.complete e).irqStatus.getLsbD 1 = (decide (e ≠ .ok) || u.irqStatus.getLsbD 1) := by
  rw [State.complete_irqStatus, completionIrqBits, ← e.isError_eq]
  cases e.isError <;> simp

theorem irqCleared_getLsbD (old : BitVec 2) (v : Word) {i : Nat} (hi : i < 2) :
    (irqCleared old v).getLsbD i = (old.getLsbD i && !v.getLsbD i) := by
  simp [irqCleared, hi]

/-- Settles O54: the write clears first, and the completion's bits are then set whatever it cleared. -/
theorem completionWinsOverIrqClear : Obligations.CompletionWinsOverIrqClear := by
  intro s t es v he hb hstep
  rw [step_of_engineMeetsIrqWrite he] at hstep
  rcases engineTurn_next hstep with ⟨hidle, -⟩ | ⟨-, u, e, rfl, hw⟩
  · exact absurd (hb.symm.trans hidle) (by decide)
  · refine ⟨complete_irqStatus_done u e, ?_⟩
    have hu : u.irqStatus = irqCleared s.irqStatus v := hw.worked.irqStatus_eq
    rw [complete_irqStatus_err, hu, irqCleared_getLsbD _ _ (by decide), State.complete_errCode]

/-- Settles O55: a completion sets DONE_IS, and ERR_IS with error; the enables are as they were. -/
theorem irqAfterACompletion : Obligations.IrqAfterACompletion := by
  intro i s t hx
  obtain ⟨u, e, rfl, hw⟩ := exec_next hx
  rw [State.irq, complete_irqStatus_done, complete_irqStatus_err, State.complete_irqEn, State.complete_errCode,
    hw.worked.irqEn_eq, hw.worked.irqStatus_eq]
  simp [and_comm]

end Sys2Proof.Machine
end

section
/-! The STATUS word (10_state R35). -/

namespace Sys2Proof.Machine

/-- A flag shifted to bit n of a register is that bit. -/
theorem flagBit_shiftLeft_getLsbD (b : Bool) (n : Nat) {i : Nat} (hi : i < 32) :
    (flagBit b <<< n).getLsbD i = (b && decide (i = n)) := by
  rw [Bool.eq_iff_iff]
  cases b with
  | false => simp [flagBit]
  | true =>
    have h : n ≤ i ∧ i - n = 0 ↔ i = n := by omega
    simp [flagBit, hi, h]

/-- STATUS bit by bit (10_state R35). -/
theorem statusWord_getLsbD (s : State) {i : Nat} (hi : i < 32) :
    s.statusWord.getLsbD i =
      (s.busy && decide (i = 0) || s.done && decide (i = 1) || s.err && decide (i = 2) || s.ovr && decide (i = 3) ||
        s.sat && decide (i = 4) || decide (8 ≤ i) && s.errCode.bits.getLsbD (i - 8)) := by
  have hbusy := flagBit_shiftLeft_getLsbD s.busy 0 hi
  rw [BitVec.shiftLeft_zero] at hbusy
  have hcode : (s.errCode.bits.setWidth 32 <<< 8).getLsbD i = (decide (8 ≤ i) && s.errCode.bits.getLsbD (i - 8)) := by
    rw [BitVec.getLsbD_shiftLeft, BitVec.getLsbD_setWidth]
    have : i - 8 < 32 := by omega
    rw [decide_eq_true hi, decide_eq_true this, Bool.true_and, Bool.true_and, ← decide_not]
    simp only [Nat.not_lt]
  simp only [State.statusWord, BitVec.getLsbD_or, flagBit_shiftLeft_getLsbD _ _ hi, hbusy, hcode]

/-- STATUS above bit 7 is the error code's number. -/
theorem statusWord_div_256 (s : State) : s.statusWord.toNat / 256 = s.errCode.bits.toNat := by
  show s.statusWord.toNat / 2 ^ 8 = s.errCode.bits.toNat
  refine Nat.eq_of_testBit_eq fun j => ?_
  rw [Nat.testBit_div_two_pow, BitVec.testBit_toNat, BitVec.testBit_toNat]
  by_cases hj : j + 8 < 32
  · simp [statusWord_getLsbD s hj]
  · rw [BitVec.getLsbD_of_ge _ _ (by omega), BitVec.getLsbD_of_ge _ _ (by omega)]

/-- Bits 7:5 of STATUS read 0. -/
theorem statusWord_reserved (s : State) : s.statusWord.toNat / 32 % 8 = 0 := by
  show s.statusWord.toNat / 2 ^ 5 % 2 ^ 3 = 0
  refine Nat.eq_of_testBit_eq fun j => ?_
  rw [Nat.testBit_mod_two_pow, Nat.testBit_div_two_pow, BitVec.testBit_toNat]
  by_cases hj : j < 3
  · have h8 : ¬ 8 ≤ j + 5 := by omega
    simp [statusWord_getLsbD s (show j + 5 < 32 by omega), h8]
  · simp [hj]

/-- Settles O56: the flag bits and the reserved bits from `statusWord_getLsbD`, the code from `statusWord_div_256`. -/
theorem statusWordBits : Obligations.StatusWordBits := by
  intro s
  have hcode : ∀ e, s.errCode = e → (s.regValue .status).toNat / 256 = e.bits.toNat := fun e he =>
    he ▸ statusWord_div_256 s
  refine ⟨fun es v he => step_of_host he, ?_, ?_, ?_, ?_, ?_, statusWord_reserved s, hcode _, hcode _, hcode _,
    hcode _, hcode _, hcode _, hcode _, hcode _, hcode _⟩
  all_goals exact (statusWord_getLsbD s (by decide)).trans (by simp)

end Sys2Proof.Machine
end

section
/-! The CODE_BITS view (10_state R54). -/

namespace Sys2Proof.Machine

/-- A bit sequence read as a number, bit by bit from its end (10_state R54). -/
theorem bitsToNat_testBit (u : Code) (i : Nat) : (bitsToNat u).testBit i = u.reverse.getD i false := by
  induction u using List.reverseRecOn generalizing i with
  | nil => simp [bitsToNat]
  | append_singleton u b ih =>
    have hcat : bitsToNat (u ++ [b]) = 2 * bitsToNat u + b.toNat := List.foldl_concat ..
    rw [hcat, List.reverse_concat]
    cases i with
    | zero => cases b <;> simp
    | succ i =>
      have hhalf : (2 * bitsToNat u + b.toNat) / 2 = bitsToNat u := by have := b.toNat_lt; omega
      rw [Nat.testBit_succ, hhalf, ih, List.getD_cons_succ]

/-- Bit 31 - j of word k is code bit 32k + j, unused bits being 0 (10_state R54). -/
theorem codeBitsWord_getLsbD (c : Code) (k : Nat) {j : Nat} (hj : j ≤ 31) :
    (codeBitsWord c k).getLsbD (31 - j) = c.getD (32 * k + j) false := by
  have hlt : 31 - j < 32 := by omega
  have hback : 32 - 1 - (31 - j) = j := by omega
  have hrange : (List.range 32)[j]? = some j := List.getElem?_range (by omega)
  rw [codeBitsWord, BitVec.getLsbD_ofNat, bitsToNat_testBit, List.getD_reverse _ (by simpa using hlt), List.length_map,
    List.length_range, hback, decide_eq_true hlt, Bool.true_and, List.getD_eq_getElem?_getD, List.getElem?_map, hrange]
  rfl

/-- Settles O57: `codeBitsWord_getLsbD`, the bits past the code's end being the default 0. -/
theorem codeBitsViewIsMsbFirst : Obligations.CodeBitsViewIsMsbFirst := by
  intro s x k j hj
  refine (codeBitsWord_getLsbD (s.code.get x) k.val hj).trans ?_
  split
  case isTrue h => exact List.getD_eq_getElem _ _ h
  case isFalse h => exact List.getD_eq_default _ _ (Nat.not_lt.mp h)

end Sys2Proof.Machine
end

section
/-! The parameter registers, which no command reads (10_state R56, R60). -/

namespace Sys2Proof.Machine

/-- The state with other values in the four parameter registers (10_state R43 to R46). -/
def State.withParams (s : State) (sa sl da dc : Word) : State :=
  { s with srcAddr := sa, srcLen := sl, dstAddr := da, dstCap := dc }

/-- The outcome, its next state changed by `f`. -/
def mapNext (f : State → State) : Host.Outcome State Fault Refusal → Host.Outcome State Fault Refusal
  | .next s => .next (f s)
  | .fault r => .fault r
  | .refused r => .refused r

section
variable (s : State) (sa sl da dc : Word)

theorem headerRead_withParams (c : List Byte) :
    (s.withParams sa sl da dc).headerRead c = (s.headerRead c).withParams sa sl da dc := by
  unfold State.headerRead
  split <;> rfl

theorem encodeInto_withParams (b : List Byte) :
    encodeInto b (s.withParams sa sl da dc) = mapNext (·.withParams sa sl da dc) (encodeInto b s) := by
  unfold encodeInto
  rw [apply_ite (mapNext _)]
  rfl

theorem execEncode_withParams :
    execEncode (s.withParams sa sl da dc) = mapNext (·.withParams sa sl da dc) (execEncode s) := by
  unfold execEncode
  rw [apply_ite (mapNext _), apply_ite (mapNext _), ← encodeInto_withParams]
  rfl

theorem execCompress_withParams :
    execCompress (s.withParams sa sl da dc) = mapNext (·.withParams sa sl da dc) (execCompress s) := by
  unfold execCompress
  rw [apply_ite (mapNext _), ← encodeInto_withParams]
  rfl

theorem execFreqAccum_withParams :
    execFreqAccum (s.withParams sa sl da dc) = mapNext (·.withParams sa sl da dc) (execFreqAccum s) := by
  unfold execFreqAccum
  rw [apply_ite (mapNext _)]
  rfl

theorem execParseHeader_withParams :
    execParseHeader (s.withParams sa sl da dc) = mapNext (·.withParams sa sl da dc) (execParseHeader s) := by
  have hsource : (s.withParams sa sl da dc).sourceBytes = s.sourceBytes := rfl
  unfold execParseHeader
  rw [apply_ite (mapNext _), hsource, headerRead_withParams]
  cases parseContainer s.sourceBytes <;> rfl

theorem execDecompress_withParams :
    execDecompress (s.withParams sa sl da dc) = mapNext (·.withParams sa sl da dc) (execDecompress s) := by
  have hsource : (s.withParams sa sl da dc).sourceBytes = s.sourceBytes := rfl
  unfold execDecompress
  rw [apply_ite (mapNext _), hsource, headerRead_withParams]
  cases parseContainer s.sourceBytes with
  | error e => rfl
  | ok p =>
    cases h : decodeBits (codedEntries p.table) [] (retain p.payload p.pad) with
    | none => simp only [h]; rfl
    | some out => simp only [h, apply_ite (mapNext _)]; rfl

/-- Every command commutes with a change of the four parameter registers (10_state R56, R60). -/
theorem exec_withParams (i : Instr) :
    exec i (s.withParams sa sl da dc) = mapNext (·.withParams sa sl da dc) (exec i s) := by
  cases i with
  | freqAccum => exact execFreqAccum_withParams ..
  | encode => exact execEncode_withParams ..
  | compress => exact execCompress_withParams ..
  | parseHeader => exact execParseHeader_withParams ..
  | decompress => exact execDecompress_withParams ..
  | _ => rfl

end

/-- Settles O46: the commands read the latch, so changing the four registers before a command or after it is the
same. -/
theorem commandsReadOnlyTheLatchedParameters : Obligations.CommandsReadOnlyTheLatchedParameters := by
  intro i s t sa sl da dc hx
  exact (exec_withParams s sa sl da dc i).trans (congrArg (mapNext (·.withParams sa sl da dc)) hx)

end Sys2Proof.Machine
end

section
/-! What a command writes to memory and what it reads of it: one lemma over the nine commands, run with any memory that
agrees on the latched source region (20_memory R85, R86). -/

namespace Sys2Proof.Machine

/-- The state with another data memory. -/
def State.withMem (s : State) (m : Memory) : State := { s with mem := m }

/-- Memory `m` holds the latched source region's bytes of `s`. -/
def State.SourceAgrees (s : State) (m : Memory) : Prop :=
  ∀ j, j < s.latch.srcLen.toNat →
    Memory.read m (s.latch.srcAddr.toNat + j) = Memory.read s.mem (s.latch.srcAddr.toNat + j)

/-- The three commands that write a destination region (20_memory R86). -/
def WritesDest (i : Instr) : Prop := i = .encode ∨ i = .compress ∨ i = .decompress

/-- The any-value bytes `spoilDst` leaves in the latched destination region (20_memory R86; log 4). -/
def State.spoilBytes (s : State) : List Byte :=
  (List.range s.latch.dstCap.toNat).map (fun i => Config.freeByte s.draws (s.latch.dstAddr.toNat + i))

theorem State.spoilBytes_length (s : State) : s.spoilBytes.length = s.latch.dstCap.toNat := by
  simp [State.spoilBytes]

@[simp] theorem State.withMem_latch (s : State) (m : Memory) : (s.withMem m).latch = s.latch := rfl

@[simp] theorem State.withMem_code (s : State) (m : Memory) : (s.withMem m).code = s.code := rfl

theorem State.withMem_spoilDst (s : State) (m : Memory) :
    (s.withMem m).spoilDst = s.spoilDst.withMem (Memory.writeBytes m s.latch.dstAddr.toNat s.spoilBytes) := rfl

theorem State.withMem_deliver (s : State) (m : Memory) (out : List Byte) :
    (s.withMem m).deliver out = (s.deliver out).withMem (Memory.writeBytes m s.latch.dstAddr.toNat out) := rfl

@[simp] theorem State.withMem_withCode (s : State) (m : Memory) (t : Table Code) :
    (s.withMem m).withCode t = (s.withCode t).withMem m := rfl

@[simp] theorem State.withMem_headerRead (s : State) (m : Memory) (c : List Byte) :
    (s.withMem m).headerRead c = (s.headerRead c).withMem m := by
  unfold State.headerRead
  cases headerFields c <;> rfl

theorem State.SourceAgrees.self (s : State) : s.SourceAgrees s.mem := fun _ _ => rfl

theorem State.SourceAgrees.sourceBytes_eq {s : State} {m : Memory} (h : s.SourceAgrees m) :
    (s.withMem m).sourceBytes = s.sourceBytes := by
  refine Memory.readBytes_congr fun x hlo hhi => ?_
  obtain ⟨j, rfl⟩ := Nat.exists_eq_add_of_le hlo
  exact h j (Nat.lt_of_add_lt_add_left hhi)

theorem State.SourceAgrees.recoded_eq {s : State} {m : Memory} (h : s.SourceAgrees m) :
    (s.withMem m).recoded = s.recoded.withMem m := by
  unfold State.recoded
  rw [h.sourceBytes_eq]
  rfl

/-- The only errors a parse reports (44_decoder R251, R253 to R256, R258). -/
theorem parseContainer_error {c : List Byte} {e : ErrCode} (h : parseContainer c = .error e) :
    e = .malformedHeader ∨ e = .invalidPadding ∨ e = .invalidCodeTable := by
  unfold parseContainer at h
  repeat' split at h
  all_goals cases h
  all_goals decide

/-- What command `i`, latched as `l` and ending with code `e` and OUT_LEN `n`, may write from the destination's first
byte on (20_memory R86; 60_exceptions R313). -/
structure MayWrite (i : Instr) (l : Latch) (e : ErrCode) (n : Word) (out : List Byte) : Prop where
  fits : out.length ≤ l.dstCap.toNat
  onlyWriters : ¬ WritesDest i → out = []
  noChange : e = .region ∨ e = .illegalCmd → out = []
  counted : WritesDest i → e = .ok → n = BitVec.ofNat 32 out.length

section
variable {i : Instr} {l : Latch} {e : ErrCode} {n : Word} {out : List Byte}

theorem mayWrite_nothing (h : WritesDest i → e ≠ .ok) : MayWrite i l e n [] :=
  ⟨Nat.zero_le _, fun _ => rfl, fun _ => rfl, fun hi he => absurd he (h hi)⟩

theorem mayWrite_output (hi : WritesDest i) (hfit : out.length ≤ l.dstCap.toNat) :
    MayWrite i l .ok (BitVec.ofNat 32 out.length) out :=
  ⟨hfit, fun h => absurd hi h, by simp, fun _ _ => rfl⟩

theorem mayWrite_spoiled (s : State) (hi : WritesDest i) (hok : e ≠ .ok) (hr : e ≠ .region) (hc : e ≠ .illegalCmd) :
    MayWrite i s.latch e n s.spoilBytes :=
  ⟨s.spoilBytes_length.le, fun h => absurd hi h, fun h => h.elim (absurd · hr) (absurd · hc), fun _ h => absurd h hok⟩

/-- OUT_LEN is the exact length of what a success wrote: the capacity is a 32-bit number (10_state R46, R47). -/
theorem MayWrite.outLen_toNat (h : MayWrite i l e n out) (hi : WritesDest i) (he : e = .ok) :
    n.toNat = out.length := by
  rw [h.counted hi he, BitVec.toNat_ofNat]
  exact Nat.mod_eq_of_lt (h.fits.trans_lt l.dstCap.isLt)

end

/-- Run from `s` with any memory that agrees on the source region, `run` answers alike in every other field, and writes
the same bytes at the latched destination. -/
def RunsAlike (i : Instr) (s : State) (run : State → Host.Outcome State Fault Refusal) : Prop :=
  ∃ (e : ErrCode) (u : State) (out : List Byte), MayWrite i s.latch e u.outLen out ∧
    ∀ m, s.SourceAgrees m →
      run (s.withMem m) = .next ((u.withMem (Memory.writeBytes m s.latch.dstAddr.toNat out)).complete e)

section
variable {i : Instr} (s : State) {run : State → Host.Outcome State Fault Refusal}

/-! ### The ends a command's work can have -/

/-- A failed region check writes nothing (60_exceptions R313). -/
theorem runsAlike_of_region (h : ∀ m, run (s.withMem m) = failWith .region (s.withMem m)) : RunsAlike i s run :=
  ⟨.region, s, [], mayWrite_nothing (by simp), fun m _ => h m⟩

/-- A later failure of a command with a destination spoils the region, whatever the work `v` before it. -/
theorem runsAlike_of_failDst (e : ErrCode) (hi : WritesDest i) (v : State) (hlatch : v.latch = s.latch)
    (he : e ≠ .ok ∧ e ≠ .region ∧ e ≠ .illegalCmd)
    (h : ∀ m, s.SourceAgrees m → run (s.withMem m) = failDst e (v.withMem m)) : RunsAlike i s run := by
  obtain ⟨hok, hr, hc⟩ := he
  refine ⟨e, v.spoilDst, v.spoilBytes, hlatch ▸ mayWrite_spoiled v hi hok hr hc, fun m hm => ?_⟩
  rw [h m hm, failDst_eq, State.withMem_spoilDst, hlatch]

/-- A success delivers the same bytes. -/
theorem runsAlike_of_deliver (hi : WritesDest i) (v : State) (hlatch : v.latch = s.latch) (out : List Byte)
    (hfit : out.length ≤ s.latch.dstCap.toNat)
    (h : ∀ m, s.SourceAgrees m → run (s.withMem m) = completeOk ((v.withMem m).deliver out)) : RunsAlike i s run := by
  refine ⟨.ok, v.deliver out, out, mayWrite_output hi hfit, fun m hm => ?_⟩
  rw [h m hm, completeOk_eq, State.withMem_deliver, hlatch]

/-- A command with no destination leaves memory alone. -/
theorem runsAlike_of_noDest (hi : ¬ WritesDest i) (e : ErrCode) (u : State)
    (h : ∀ m, s.SourceAgrees m → run (s.withMem m) = .next ((u.withMem m).complete e)) : RunsAlike i s run :=
  ⟨e, u, [], mayWrite_nothing (absurd · hi), h⟩

/-! ### Every command -/

theorem encodeInto_runsAlike (hi : WritesDest i) (b : List Byte) : RunsAlike i s (encodeInto b) := by
  by_cases hfit : (containerOf s.code b).length ≤ s.latch.dstCap.toNat
  · exact runsAlike_of_deliver s hi (s.withHeader (BitVec.ofNat 32 (pack (encodeBits s.code b)).2)
      (BitVec.ofNat 32 (serializeTable s.code).length)) rfl _ hfit fun m _ => if_pos hfit
  · exact runsAlike_of_failDst s .dstOverflow hi s rfl (by decide) fun m _ => if_neg hfit

theorem execFreqAccum_runsAlike : RunsAlike .freqAccum s execFreqAccum := by
  by_cases hr : s.latch.sourceOk = true
  · refine runsAlike_of_noDest s (by simp [WritesDest]) .ok
      (s.withFreq (accumulated s.freq s.sourceBytes) (s.sat || someSaturates s.freq s.sourceBytes)) fun m hm => ?_
    rw [execFreqAccum, State.withMem_latch, if_pos hr, hm.sourceBytes_eq]
    rfl
  · exact runsAlike_of_region s fun m => if_neg hr

theorem execEncode_runsAlike : RunsAlike .encode s execEncode := by
  have hi : WritesDest .encode := .inl rfl
  by_cases hr : s.latch.regionsOk = true
  · by_cases hc : allCoded s.code s.sourceBytes = true
    · obtain ⟨e, u, out, hw, hrun⟩ := encodeInto_runsAlike s hi s.sourceBytes
      refine ⟨e, u, out, hw, fun m hm => ?_⟩
      simpa [execEncode, hr, hm.sourceBytes_eq, hc] using hrun m hm
    · refine runsAlike_of_failDst s .noCode hi s rfl (by decide) fun m hm => ?_
      simp [execEncode, hr, hm.sourceBytes_eq, hc]
  · exact runsAlike_of_region s fun m => if_neg hr

theorem execCompress_runsAlike : RunsAlike .compress s execCompress := by
  by_cases hr : s.latch.regionsOk = true
  · obtain ⟨e, u, out, hw, hrun⟩ := encodeInto_runsAlike s.recoded (.inr (.inl rfl)) s.sourceBytes
    refine ⟨e, u, out, hw, fun m hm => ?_⟩
    rw [execCompress, State.withMem_latch, if_pos hr, hm.sourceBytes_eq, hm.recoded_eq]
    exact hrun m hm
  · exact runsAlike_of_region s fun m => if_neg hr

theorem execParseHeader_runsAlike : RunsAlike .parseHeader s execParseHeader := by
  have hi : ¬ WritesDest .parseHeader := by simp [WritesDest]
  by_cases hr : s.latch.sourceOk = true
  · cases hp : parseContainer s.sourceBytes with
    | error e =>
      refine runsAlike_of_noDest s hi e (s.headerRead s.sourceBytes) fun m hm => ?_
      simp [execParseHeader, hr, hm.sourceBytes_eq, hp, failWith_eq]
    | ok p =>
      refine runsAlike_of_noDest s hi .ok ((s.headerRead s.sourceBytes).withCode p.table) fun m hm => ?_
      simp [execParseHeader, hr, hm.sourceBytes_eq, hp, completeOk_eq]
  · exact runsAlike_of_region s fun m => if_neg hr

theorem execDecompress_runsAlike : RunsAlike .decompress s execDecompress := by
  have hi : WritesDest .decompress := .inr (.inr rfl)
  by_cases hr : s.latch.regionsOk = true
  · cases hp : parseContainer s.sourceBytes with
    | error e =>
      have he : e ≠ .ok ∧ e ≠ .region ∧ e ≠ .illegalCmd := by
        rcases parseContainer_error hp with rfl | rfl | rfl <;> decide
      refine runsAlike_of_failDst s e hi (s.headerRead s.sourceBytes) (headerRead_latch ..) he fun m hm => ?_
      simp [execDecompress, hr, hm.sourceBytes_eq, hp]
    | ok p =>
      have hlatch : ((s.headerRead s.sourceBytes).withCode p.table).latch = s.latch := headerRead_latch ..
      cases hd : decodeBits (codedEntries p.table) [] (retain p.payload p.pad) with
      | none =>
        refine runsAlike_of_failDst s .unresolvableBits hi _ hlatch (by decide) fun m hm => ?_
        simp [execDecompress, hr, hm.sourceBytes_eq, hp, hd]
      | some out =>
        by_cases hfit : out.length ≤ s.latch.dstCap.toNat
        · refine runsAlike_of_deliver s hi _ hlatch out hfit fun m hm => ?_
          simp [execDecompress, hr, hm.sourceBytes_eq, hp, hd, hfit]
        · refine runsAlike_of_failDst s .dstOverflow hi _ hlatch (by decide) fun m hm => ?_
          simp [execDecompress, hr, hm.sourceBytes_eq, hp, hd, hfit]
  · exact runsAlike_of_region s fun m => if_neg hr

/-- Every command depends on the latched source region alone and writes within its destination (20_memory R85, R86). -/
theorem exec_runsAlike (i : Instr) : RunsAlike i s (exec i) := by
  cases i with
  | nop => exact runsAlike_of_noDest s (by simp [WritesDest]) .ok s fun _ _ => rfl
  | illegal o r => exact runsAlike_of_noDest s (by simp [WritesDest]) .illegalCmd s fun _ _ => rfl
  | freqClear => exact runsAlike_of_noDest s (by simp [WritesDest]) .ok (s.withFreq (Table.fill 0) false) fun _ _ => rfl
  | buildCodes =>
    exact runsAlike_of_noDest s (by simp [WritesDest]) .ok (s.withCode (builtCodes s.freq)) fun _ _ => rfl
  | freqAccum => exact execFreqAccum_runsAlike s
  | encode => exact execEncode_runsAlike s
  | compress => exact execCompress_runsAlike s
  | parseHeader => exact execParseHeader_runsAlike s
  | decompress => exact execDecompress_runsAlike s

end

/-! ### The two statements -/

/-- Settles O44: the bytes written stand at the destination's start, are no longer than its capacity, and are none for a
command without a destination and after REGION and ILLEGAL_CMD (`MayWrite`). -/
theorem commandsWriteOnlyTheDestination : Obligations.CommandsWriteOnlyTheDestination := by
  intro i s t hx
  obtain ⟨e, u, out, hw, hrun⟩ := exec_runsAlike s i
  obtain rfl := Host.Outcome.next.inj (hx.symm.trans (hrun s.mem (.self s)))
  have hfits := hw.fits
  refine ⟨fun a ha => ?_, fun h1 h2 h3 => ?_, fun hi he => ?_, fun he => ?_⟩
  · refine Memory.read_writeBytes_outside _ _ _ _ fun hin => ha ?_
    omega
  · have hout := hw.onlyWriters fun hi => hi.elim h1 (·.elim h2 h3)
    rw [hout]
    rfl
  · have hlen : u.outLen.toNat = out.length := hw.outLen_toNat hi he
    refine ⟨hlen.trans_le hfits, fun a ha => Memory.read_writeBytes_outside _ _ _ _ ?_⟩
    have ha : s.latch.dstAddr.toNat + u.outLen.toNat ≤ a := ha
    omega
  · have hout := hw.noChange he
    rw [hout]
    rfl

/-- Settles O45: both runs end in the same state but for memory, where they wrote the same bytes. -/
theorem commandsReadOnlyTheSource : Obligations.CommandsReadOnlyTheSource := by
  intro i s t m hm hx
  obtain ⟨e, u, out, hw, hrun⟩ := exec_runsAlike s i
  obtain rfl := Host.Outcome.next.inj (hx.symm.trans (hrun s.mem (.self s)))
  refine ⟨_, hrun m hm, rfl, fun hi he j hj => ?_⟩
  have hlen : u.outLen.toNat = out.length := hw.outLen_toNat hi he
  have hj : j < u.outLen.toNat := hj
  have hin : s.latch.dstAddr.toNat ≤ s.latch.dstAddr.toNat + j ∧
      s.latch.dstAddr.toNat + j < s.latch.dstAddr.toNat + out.length := by omega
  refine (Memory.read_writeBytes ..).trans (.trans ?_ (Memory.read_writeBytes ..).symm)
  rw [dif_pos hin, dif_pos hin]

end Sys2Proof.Machine
end

section
/-! The host's byte write to memory (20_memory R93; 45_control R300). -/

namespace Sys2Proof.Machine

/-- Settles O52: the step is `hostMemWrite`, whose RACE bit is the disjunction of the two regions' tests. -/
theorem hostMemoryWriteIntoALatchedRegionSetsRace : Obligations.HostMemoryWriteIntoALatchedRegionSetsRace := by
  intro s es a b he
  refine ⟨(s.rest es).hostMemWrite a b, step_of_host he, ?_, ?_, fun a' ha' => ?_, rfl⟩
  · simp [inSource_iff, inDest_iff]
  · rw [State.hostMemWrite_mem, Memory.read_write, if_pos rfl]
  · rw [State.hostMemWrite_mem, Memory.read_write, if_neg ha', State.rest_mem]

end Sys2Proof.Machine
end

section
/-! The command word's decoder and encoder invert each other (30_encoding R105 to R109). -/

namespace Sys2Proof

@[simp] theorem opcodeField_append (r : BitVec 28) (o : BitVec 4) : opcodeField (r ++ o) = o :=
  BitVec.extractLsb'_append_eq_right

@[simp] theorem reservedField_append (r : BitVec 28) (o : BitVec 4) : reservedField (r ++ o) = r :=
  BitVec.extractLsb'_append_eq_left

/-- The two fields cover the word (30_encoding R106). -/
theorem reservedField_append_opcodeField (w : Word) : reservedField w ++ opcodeField w = w :=
  BitVec.extractLsb'_append_extractLsb'

theorem decodeWord_of_reserved_ne_zero {r : BitVec 28} (o : BitVec 4) (h : r ≠ 0) :
    decodeWord (r ++ o) = .illegal o r := by
  rw [decodeWord, reservedField_append, opcodeField_append, if_neg h]

/-- RESERVED = 0 and OPCODE 8 to 15: no row of the opcode map matches. -/
theorem decodeWord_of_opcode_ge (o : BitVec 4) :
    8 ≤ o.toNat → decodeWord ((0 : BitVec 28) ++ o) = .illegal o 0 := by
  revert o; decide

/-- The sixteen words with RESERVED = 0. -/
theorem encode_decodeWord_of_reserved_zero (o : BitVec 4) :
    (decodeWord ((0 : BitVec 28) ++ o)).wf = true ∧
      encode (decodeWord ((0 : BitVec 28) ++ o)) = (0 : BitVec 28) ++ o := by
  revert o; decide

/-- Settles O1: the eight words are evaluated, and an illegal word has RESERVED ≠ 0 or an OPCODE of no row. -/
theorem decodeInvertsEncode : Obligations.DecodeInvertsEncode := by
  intro i hwf
  cases i with
  | illegal o r =>
    change decodeWord (r ++ o) = .illegal o r
    by_cases hr : r = 0
    · subst hr
      exact decodeWord_of_opcode_ge o (by simpa [Instr.wf] using hwf)
    · exact decodeWord_of_reserved_ne_zero o hr
  | _ => decide

/-- Settles O2: a word is its two fields, and RESERVED is 0 or makes it illegal. -/
theorem everyWordIsTheEncodingOfItsCommand : Obligations.EveryWordIsTheEncodingOfItsCommand := by
  intro w
  rw [← reservedField_append_opcodeField w]
  generalize reservedField w = r, opcodeField w = o
  by_cases hr : r = 0
  · subst hr
    exact encode_decodeWord_of_reserved_zero o
  · rw [decodeWord_of_reserved_ne_zero o hr]
    exact ⟨Bool.or_eq_true_iff.mpr (.inr (bne_iff_ne.mpr hr)), rfl⟩

/-- Settles O3: ten fixed words, evaluated. -/
theorem opcodeMapWordsDecode : Obligations.OpcodeMapWordsDecode := by
  unfold Obligations.OpcodeMapWordsDecode
  decide

end Sys2Proof
end

section
/-! The register window's map, range by range (30_encoding R100 to R104). -/

namespace Sys2Proof.Machine

theorem regAt_low_gap {off : Nat} (h1 : 0x40 ≤ off) (h2 : off < 0x400) : regAt off = .reserved := by
  unfold regAt
  rw [if_neg (by omega), if_pos h2]

theorem regAt_freq {off : Nat} (h1 : 0x400 ≤ off) (h2 : off < 0x800) :
    regAt off = .freq (BitVec.ofNat 8 ((off - 0x400) / 4)) := by
  unfold regAt
  rw [if_neg (by omega), if_neg (by omega), if_pos h2]

theorem regAt_codeLen {off : Nat} (h1 : 0x800 ≤ off) (h2 : off < 0xC00) :
    regAt off = .codeLen (BitVec.ofNat 8 ((off - 0x800) / 4)) := by
  unfold regAt
  rw [if_neg (by omega), if_neg (by omega), if_neg (by omega), if_pos h2]

theorem regAt_high_gap {off : Nat} (h1 : 0xC00 ≤ off) (h2 : off < 0x1000) : regAt off = .reserved := by
  unfold regAt
  rw [if_neg (by omega), if_neg (by omega), if_neg (by omega), if_neg (by omega), if_pos h2]

theorem regAt_codeBits {off : Nat} (h : 0x1000 ≤ off) :
    regAt off = .codeBits (BitVec.ofNat 8 ((off - 0x1000) / 32)) (Fin.ofNat 8 ((off - 0x1000) / 4)) := by
  unfold regAt
  rw [if_neg (by omega), if_neg (by omega), if_neg (by omega), if_neg (by omega), if_neg (by omega)]

/-- The six ranges an offset of the window can lie in. -/
theorem window_ranges (off : Nat) : off < 0x40 ∨ (0x40 ≤ off ∧ off < 0x400) ∨ (0x400 ≤ off ∧ off < 0x800) ∨
    (0x800 ≤ off ∧ off < 0xC00) ∨ (0xC00 ≤ off ∧ off < 0x1000) ∨ 0x1000 ≤ off := by
  omega

/-- A register other than a reserved one stands in the window, at a multiple of 4, where its offset says. -/
theorem regAt_of_offset {r : Reg} {off : Nat} (h : r.offset = some off) :
    off < 0x3000 ∧ off % 4 = 0 ∧ regAt off = r := by
  cases r with
  | reserved => cases h
  | freq x =>
    cases h
    have hx := x.isLt
    refine ⟨by omega, by omega, ?_⟩
    rw [regAt_freq (by omega) (by omega), Nat.add_sub_cancel_left, Nat.mul_div_cancel_left _ (by decide)]
    simp
  | codeLen x =>
    cases h
    have hx := x.isLt
    refine ⟨by omega, by omega, ?_⟩
    rw [regAt_codeLen (by omega) (by omega), Nat.add_sub_cancel_left, Nat.mul_div_cancel_left _ (by decide)]
    simp
  | codeBits x k =>
    cases h
    have hx := x.isLt
    have hk := k.isLt
    refine ⟨by omega, by omega, ?_⟩
    rw [regAt_codeBits (by omega), show (0x1000 + 32 * x.toNat + 4 * k.val - 0x1000) / 32 = x.toNat by omega,
      show (0x1000 + 32 * x.toNat + 4 * k.val - 0x1000) / 4 = 8 * x.toNat + k.val by omega]
    simp [Fin.ext_iff, Nat.mod_eq_of_lt hk]
  | _ => cases h; decide

theorem offset_regAt_control :
    ∀ off < 0x40, off % 4 = 0 → (regAt off).offset = some off ∨ regAt off = .reserved ∧ off = 0x1C := by
  decide

/-- At every multiple of 4 in the window stands a register whose offset it is, or the offset is reserved. -/
theorem offset_regAt {off : Nat} (h : off < 0x3000) (h4 : off % 4 = 0) :
    (regAt off).offset = some off ∨
      regAt off = .reserved ∧ (off = 0x1C ∨ (0x40 ≤ off ∧ off < 0x400) ∨ (0xC00 ≤ off ∧ off < 0x1000)) := by
  obtain h1 | ⟨h1, h2⟩ | ⟨h1, h2⟩ | ⟨h1, h2⟩ | ⟨h1, h2⟩ | h1 := window_ranges off
  · exact (offset_regAt_control off h1 h4).imp_right (And.imp_right .inl)
  · exact .inr ⟨regAt_low_gap h1 h2, .inr (.inl ⟨h1, h2⟩)⟩
  · left
    rw [regAt_freq h1 h2]
    simp only [Reg.offset, BitVec.toNat_ofNat, Option.some.injEq]
    omega
  · left
    rw [regAt_codeLen h1 h2]
    simp only [Reg.offset, BitVec.toNat_ofNat, Option.some.injEq]
    omega
  · exact .inr ⟨regAt_high_gap h1 h2, .inr (.inr ⟨h1, h2⟩)⟩
  · left
    rw [regAt_codeBits h1]
    simp only [Reg.offset, BitVec.toNat_ofNat, Fin.val_ofNat, Option.some.injEq]
    omega

theorem offset_eq_some_iff {r : Reg} (hr : r ≠ .reserved) (off : Nat) :
    r.offset = some off ↔ off < 0x3000 ∧ off % 4 = 0 ∧ regAt off = r := by
  refine ⟨regAt_of_offset, ?_⟩
  rintro ⟨hlt, h4, rfl⟩
  exact (offset_regAt hlt h4).resolve_right fun h => hr h.1

theorem regAt_eq_reserved_iff {off : Nat} (h : off < 0x3000) (h4 : off % 4 = 0) :
    regAt off = .reserved ↔ off = 0x1C ∨ (0x40 ≤ off ∧ off < 0x400) ∨ (0xC00 ≤ off ∧ off < 0x1000) := by
  constructor
  · intro hr
    obtain hoff | ⟨-, hgap⟩ := offset_regAt h h4
    · rw [hr] at hoff
      cases hoff
    · exact hgap
  · rintro (rfl | ⟨h1, h2⟩ | ⟨h1, h2⟩)
    · rfl
    · exact regAt_low_gap h1 h2
    · exact regAt_high_gap h1 h2

/-- Settles O47: `Reg.offset` and `regAt` invert each other on the window's ranges. -/
theorem registersStandAtTheirOffsets : Obligations.RegistersStandAtTheirOffsets := by
  refine ⟨fun r off hr => offset_eq_some_iff hr off, by decide, fun x => ?_, fun off => regAt_eq_reserved_iff,
    fun _ => rfl⟩
  have at_own_offset {r : Reg} {off : Nat} (h : r.offset = some off) : regAt off = r := (regAt_of_offset h).2.2
  exact ⟨at_own_offset (r := .freq x) rfl, at_own_offset (r := .codeLen x) rfl,
    fun k => at_own_offset (r := .codeBits x k) rfl⟩

end Sys2Proof.Machine
end

section
/-! ParseTable and SerializeTable invert each other (30_encoding R126 to R129; 41_tree_and_codes R181; 44_decoder R254
to R256). -/

namespace Sys2Proof.Machine

/-! ### Entry lists -/

/-- What the entries of a table have that follow the symbol `prev`, if any: their symbols ascend from it, and each has a
code that fits its length byte (30_encoding R126, R127). -/
structure EntriesOk (prev : Option Byte) (es : List (Byte × Code)) : Prop where
  ascending : (prev.toList ++ es.map Prod.fst).Pairwise (· < ·)
  coded : ∀ e ∈ es, e.2 ≠ []
  short : ∀ e ∈ es, e.2.length ≤ 255

theorem entriesOk_nil (prev : Option Byte) : EntriesOk prev [] where
  ascending := by cases prev <;> simp
  coded := by simp
  short := by simp

theorem entriesOk_cons (prev : Option Byte) (x : Byte) (c : Code) (es : List (Byte × Code)) :
    EntriesOk prev ((x, c) :: es) ↔
      ascends prev x = true ∧ c ≠ [] ∧ c.length ≤ 255 ∧ EntriesOk (some x) es := by
  have hasc : (prev.toList ++ x :: es.map Prod.fst).Pairwise (· < ·) ↔
      ascends prev x = true ∧ (x :: es.map Prod.fst).Pairwise (· < ·) := by
    cases prev with
    | none => simp [ascends]
    | some p =>
      rw [Option.toList_some, List.singleton_append, List.pairwise_cons_cons_iff_of_trans]
      simp [ascends, BitVec.lt_def]
  constructor
  · rintro ⟨h1, h2, h3⟩
    obtain ⟨hx, hes⟩ := hasc.mp h1
    obtain ⟨hc, hcoded⟩ := List.forall_mem_cons.mp h2
    obtain ⟨hlen, hshort⟩ := List.forall_mem_cons.mp h3
    exact ⟨hx, hc, hlen, hes, hcoded, hshort⟩
  · rintro ⟨hx, hc, hlen, hes, hcoded, hshort⟩
    exact ⟨hasc.mpr ⟨hx, hes⟩, List.forall_mem_cons.mpr ⟨hc, hcoded⟩, List.forall_mem_cons.mpr ⟨hlen, hshort⟩⟩

/-- The entries as pairs ascend in their first components. -/
theorem EntriesOk.pairwise {es : List (Byte × Code)} (h : EntriesOk none es) : es.Pairwise (fun e f => e.1 < f.1) :=
  List.pairwise_map.mp h.ascending

/-! ### Tables as entry lists -/

/-- With ascending symbols, the table of a list gives each entry's symbol its code. -/
theorem tableOf_get_of_mem {l : List (Byte × Code)} (hl : l.Pairwise (fun e f => e.1 < f.1)) {x : Byte} {c : Code}
    (h : (x, c) ∈ l) : (tableOf l).get x = c := by
  obtain ⟨before, after, rfl⟩ := List.append_of_mem h
  obtain ⟨-, -, hlt⟩ := List.pairwise_append.mp hl
  have hbefore : ∀ e ∈ before, (x != e.1) = true := fun e he =>
    bne_iff_ne.mpr (BitVec.ne_of_lt (hlt e he _ List.mem_cons_self)).symm
  rw [tableOf_get, List.lookup_eq_some_iff.mpr ⟨before, after, rfl, hbefore⟩, Option.getD_some]

theorem symbols_pairwise : symbols.Pairwise (· < ·) := by
  unfold symbols
  rw [List.pairwise_map]
  refine List.pairwise_lt_range.imp_of_mem fun {a b} ha hb hab => ?_
  rw [List.mem_range, Config.alphabet] at ha hb
  rw [BitVec.lt_def, BitVec.toNat_ofNat, BitVec.toNat_ofNat]
  omega

theorem codedEntries_pairwise (t : Table Code) : (codedEntries t).Pairwise (fun e f => e.1 < f.1) := by
  rw [codedEntries, Table.pairs_eq]
  exact (symbols_pairwise.map (fun x => (x, t.get x)) fun _ _ h => h).filter _

theorem entriesOk_codedEntries {t : Table Code} (h : CodeOk t) : EntriesOk none (codedEntries t) where
  ascending := List.pairwise_map.mpr (codedEntries_pairwise t)
  coded := fun e he => ((mem_codedEntries t e.1 e.2).mp he).2
  short := fun e he => ((mem_codedEntries t e.1 e.2).mp he).1 ▸ h.2 e.1

@[simp] theorem tableOf_codedEntries (t : Table Code) : tableOf (codedEntries t) = t := by
  refine Table.ext_get fun x => ?_
  by_cases hx : t.get x = []
  · obtain hget | hmem := tableOf_get_cases (codedEntries t) x
    · rw [hget, hx]
    · exact ((mem_codedEntries t x _).mp hmem).1.symm
  · exact tableOf_get_of_mem (codedEntries_pairwise t) ((mem_codedEntries t x _).mpr ⟨rfl, hx⟩)

theorem codedEntries_tableOf {es : List (Byte × Code)} (h : EntriesOk none es) : codedEntries (tableOf es) = es := by
  have hirrefl : Std.Irrefl (fun e f : Byte × Code => e.1 < f.1) := ⟨fun _ => BitVec.lt_irrefl _⟩
  have hanti : Std.Antisymm (fun e f : Byte × Code => e.1 < f.1) := ⟨fun _ _ h k => absurd k (BitVec.lt_asymm h)⟩
  refine (codedEntries_pairwise _).eq_of_mem_iff h.pairwise fun e => ?_
  rw [mem_codedEntries]
  constructor
  · rintro ⟨hget, hne⟩
    have hcases := tableOf_get_cases es e.1
    rw [hget] at hcases
    exact hcases.resolve_left hne
  · exact fun he => ⟨tableOf_get_of_mem h.pairwise he, h.coded e he⟩

/-- The check on the entries is the check on the table. -/
theorem PrefixFree.codedEntries {t : Table Code} (h : PrefixFree t) : (codedEntries t).Pairwise Incomparable := by
  refine (codedEntries_pairwise t).imp_of_mem fun {e f} he hf hlt => ?_
  obtain ⟨hget, hne⟩ := (mem_codedEntries t e.1 e.2).mp he
  obtain ⟨hget', hne'⟩ := (mem_codedEntries t f.1 f.2).mp hf
  rw [← hget] at hne
  rw [← hget'] at hne'
  rw [Incomparable, ← hget, ← hget']
  exact ⟨h e.1 f.1 (BitVec.ne_of_lt hlt) hne hne', h f.1 e.1 (BitVec.ne_of_lt hlt).symm hne' hne⟩

/-! ### The parser's loop -/

theorem digitBit_eq_some_iff (d : Byte) (b : Bool) : digitBit d = some b ↔ digitByte b = d := by
  constructor
  · intro h
    unfold digitBit at h
    split_ifs at h with h0 h1 <;> cases h
    · exact h0.symm
    · exact h1.symm
  · rintro rfl
    exact digitBit_digitByte b

/-- A row of bytes spells a code exactly when it is the code's row of digits (30_encoding R126). -/
theorem digitsCode_eq_some_iff (ds : List Byte) (c : Code) : digitsCode ds = some c ↔ c.map digitByte = ds := by
  unfold digitsCode
  induction ds generalizing c with
  | nil => simp [eq_comm]
  | cons d ds ih =>
    cases c with
    | nil => simp [Option.bind_eq_some_iff]
    | cons b c => simp [Option.bind_eq_some_iff, digitBit_eq_some_iff, ih]

/-- One turn of the loop: what it checks, and what it reads off. -/
theorem parseEntries_cons_eq_some_iff {k : Nat} {prev : Option Byte} {x len : Byte} {rest : List Byte}
    {es : List (Byte × Code)} :
    parseEntries (k + 1) prev (x :: len :: rest) = some es ↔
      ascends prev x = true ∧ len ≠ 0 ∧ len.toNat ≤ rest.length ∧
      ∃ c es', es = (x, c) :: es' ∧ c.map digitByte = rest.take len.toNat ∧
        parseEntries k (some x) (rest.drop len.toNat) = some es' := by
  constructor
  · intro h
    obtain ⟨c, es', rfl, hc, hes⟩ := parseEntries_cons h
    rw [parseEntries, Option.ite_none_right_eq_some] at h
    obtain ⟨hguard, -⟩ := h
    simp only [Bool.and_eq_true, bne_iff_ne, decide_eq_true_eq] at hguard
    obtain ⟨⟨hasc, hne⟩, hle⟩ := hguard
    exact ⟨hasc, hne, hle, c, es', rfl, (digitsCode_eq_some_iff _ _).mp hc, hes⟩
  · rintro ⟨hasc, hne, hle, c, es', rfl, hc, hes⟩
    rw [parseEntries, (digitsCode_eq_some_iff _ _).mpr hc, hes, if_pos (by simp_all)]

/-- SYM, L and DIGITS, and the entries after them (30_encoding R126). -/
theorem entryBytes_append (x : Byte) (c : Code) (t : List Byte) :
    entryBytes (x, c) ++ t = x :: BitVec.ofNat 8 c.length :: (c.map digitByte ++ t) := rfl

theorem toNat_length_byte {c : Code} (h : c.length ≤ 255) : (BitVec.ofNat 8 c.length).toNat = c.length := by
  rw [BitVec.toNat_ofNat]
  omega

/-- The parser accepts only entries in order, and the bytes are theirs. -/
theorem entries_of_parseEntries {fuel : Nat} {prev : Option Byte} {t : List Byte} {es : List (Byte × Code)}
    (h : parseEntries fuel prev t = some es) : EntriesOk prev es ∧ es.flatMap entryBytes = t := by
  induction fuel generalizing prev t es with
  | zero =>
    cases t <;> simp only [parseEntries, Option.some.injEq, reduceCtorEq] at h
    exact h ▸ ⟨entriesOk_nil prev, rfl⟩
  | succ k ih =>
    match t with
    | [] =>
      rw [parseEntries, Option.some.injEq] at h
      exact h ▸ ⟨entriesOk_nil prev, rfl⟩
    | [_] => simp [parseEntries] at h
    | x :: len :: rest =>
      obtain ⟨hasc, hne, hle, c, es', rfl, hc, hes⟩ := parseEntries_cons_eq_some_iff.mp h
      obtain ⟨hok, hbytes⟩ := ih hes
      have hlen : c.length = len.toNat := by
        simpa [Nat.min_eq_left hle] using congrArg List.length hc
      have hlenByte : BitVec.ofNat 8 c.length = len := by rw [hlen, BitVec.ofNat_toNat, BitVec.setWidth_eq]
      have hcoded : c ≠ [] := by
        rintro rfl
        exact hne hlenByte.symm
      have hshort : c.length ≤ 255 := hlen ▸ Nat.le_of_lt_succ len.isLt
      refine ⟨(entriesOk_cons prev x c es').mpr ⟨hasc, hcoded, hshort, hok⟩, ?_⟩
      rw [List.flatMap_cons, entryBytes_append, hbytes, hc, hlenByte, List.take_append_drop]

/-- The parser reads entries in order back from their bytes. -/
theorem parseEntries_entryBytes {fuel : Nat} {prev : Option Byte} {es : List (Byte × Code)} (h : EntriesOk prev es)
    (hfuel : (es.flatMap entryBytes).length ≤ fuel) : parseEntries fuel prev (es.flatMap entryBytes) = some es := by
  induction es generalizing fuel prev with
  | nil => cases fuel <;> rfl
  | cons e es ih =>
    obtain ⟨x, c⟩ := e
    obtain ⟨hasc, hcoded, hshort, hok⟩ := (entriesOk_cons prev x c es).mp h
    rw [List.flatMap_cons, List.length_append, entryBytes_length] at hfuel
    rw [List.flatMap_cons, entryBytes_append]
    obtain ⟨k, rfl⟩ : ∃ k, fuel = k + 1 := ⟨fuel - 1, by omega⟩
    have hlen := toNat_length_byte hshort
    have hpos := List.length_pos_iff.mpr hcoded
    refine parseEntries_cons_eq_some_iff.mpr ⟨hasc, fun h0 => ?_, ?_, c, es, rfl, ?_, ?_⟩
    · rw [h0] at hlen
      exact absurd hlen (Nat.ne_of_lt hpos)
    · simp [hlen]
    · simp [hlen]
    · rw [hlen, List.drop_left' (List.length_map _)]
      exact ih hok (by omega)

/-! ### The table parser -/

theorem parseTable_eq_some_iff (t : List Byte) (tab : Table Code) :
    parseTable t = some tab ↔
      ∃ es, parseEntries t.length none t = some es ∧ es.Pairwise Incomparable ∧ tableOf es = tab := by
  unfold parseTable
  cases parseEntries t.length none t with
  | none => simp
  | some es => simp [← entriesPrefixFree_iff]

theorem serializeTable_of_parseTable {t : List Byte} {tab : Table Code} (h : parseTable t = some tab) :
    serializeTable tab = t := by
  obtain ⟨es, hes, -, rfl⟩ := (parseTable_eq_some_iff t tab).mp h
  obtain ⟨hok, hbytes⟩ := entries_of_parseEntries hes
  rw [serializeTable, codedEntries_tableOf hok, hbytes]

/-- Decode of encode, for every table CODE can hold (30_encoding R129). -/
theorem parseTable_serializeTable {tab : Table Code} (h : CodeOk tab) : parseTable (serializeTable tab) = some tab :=
  (parseTable_eq_some_iff _ _).mpr ⟨codedEntries tab, parseEntries_entryBytes (entriesOk_codedEntries h) le_rfl,
    h.1.codedEntries, tableOf_codedEntries tab⟩

/-- Settles O29: an accepted table serializes to the bytes read, and a serialized table is read back. -/
theorem parseTableAcceptsExactlySerializedTables : Obligations.ParseTableAcceptsExactlySerializedTables := by
  intro bytes tab
  constructor
  · exact fun h => ⟨codeOk_of_parseTable h, serializeTable_of_parseTable h⟩
  · rintro ⟨hok, rfl⟩
    exact parseTable_serializeTable hok

end Sys2Proof.Machine
end

section
/-! The frequency accumulator: counting the latched source region, and what FREQ_CLEAR and FREQ_ACCUM make of FREQ
(40_frequency). -/

namespace Sys2Proof.Machine

/-! ### Count (40_frequency R150) -/

theorem sourceBytes_eq_map (s : State) : s.sourceBytes = (List.range s.latch.srcLen.toNat).map s.sourceByte := rfl

theorem count_sourceBytes (s : State) (x : Byte) : s.sourceBytes.count x = s.occurrences x := by
  rw [sourceBytes_eq_map, List.count, List.countP_map, List.countP_eq_length_filter]
  rfl

theorem occurrences_le_srcLen (s : State) (x : Byte) : s.occurrences x ≤ s.latch.srcLen.toNat := by
  rw [← count_sourceBytes, ← sourceBytes_length]
  exact List.count_le_length

/-- A symbol is counted at all exactly when some position holds it. -/
theorem occurrences_pos_iff (s : State) (x : Byte) :
    0 < s.occurrences x ↔ ∃ i, i < s.latch.srcLen.toNat ∧ s.sourceByte i = x := by
  rw [← count_sourceBytes, List.count_pos_iff, sourceBytes_eq_map]
  simp only [List.mem_map, List.mem_range]

/-! ### Saturating accumulation (40_frequency R152) -/

/-- A counter after accumulation, as a number. -/
theorem accumulated_get_toNat (f : Table Word) (b : List Byte) (x : Byte) :
    ((accumulated f b).get x).toNat = min ((f.get x).toNat + b.count x) (2 ^ 32 - 1) := by
  rw [accumulated_get]
  exact satAdd_toNat ..

/-- Chunk by chunk is all at once, whether or not a counter saturates: a counter at its limit stays there. -/
theorem accumulated_append (f : Table Word) (a b : List Byte) :
    accumulated f (a ++ b) = accumulated (accumulated f a) b := by
  refine Table.ext_get fun x => BitVec.eq_of_toNat_eq ?_
  simp only [accumulated_get_toNat, List.count_append]
  omega

theorem someSaturates_iff (f : Table Word) (b : List Byte) :
    someSaturates f b = true ↔ ∃ x, 2 ^ 32 - 1 < (f.get x).toNat + b.count x := by
  have hcounter (x : Byte) : saturates (f.get x) (b.count x) = true ↔ 2 ^ 32 - 1 < (f.get x).toNat + b.count x :=
    decide_eq_true_iff
  simp [someSaturates, Table.pairs_eq, mem_symbols, hcounter]

/-! ### The two commands -/

theorem exec_freqClear (s : State) : exec .freqClear s = .next ((s.withFreq (Table.fill 0) false).complete .ok) := rfl

theorem exec_freqAccum_of_inRange {s : State} (h : s.latch.SourceInRange) :
    exec .freqAccum s = .next ((s.withFreq (accumulated s.freq s.sourceBytes)
      (s.sat || someSaturates s.freq s.sourceBytes)).complete .ok) :=
  if_pos ((sourceOk_iff s.latch).mpr h)

theorem exec_freqAccum_of_not_inRange {s : State} (h : ¬ s.latch.SourceInRange) :
    exec .freqAccum s = .next (s.complete .region) :=
  if_neg fun hok => h ((sourceOk_iff s.latch).mp hok)

/-- A FREQ_ACCUM that ends with OK has accumulated its source: the other end is REGION. -/
theorem freq_of_freqAccum_ok {s t : State} (h : exec .freqAccum s = .next t) (hok : t.errCode = .ok) :
    t.freq = accumulated s.freq s.sourceBytes := by
  by_cases hr : s.latch.SourceInRange
  · obtain rfl := Host.Outcome.next.inj ((exec_freqAccum_of_inRange hr).symm.trans h)
    rfl
  · obtain rfl := Host.Outcome.next.inj ((exec_freqAccum_of_not_inRange hr).symm.trans h)
    cases hok

/-- From a cleared FREQ the counts are exact: no source is longer than a counter holds (40_frequency R152). -/
theorem accumulated_fill_zero_toNat (s : State) (x : Byte) :
    ((accumulated (Table.fill 0) s.sourceBytes).get x).toNat = s.occurrences x := by
  have hlen := occurrences_le_srcLen s x
  have hword := s.latch.srcLen.isLt
  have hzero : (0 : Word).toNat = 0 := rfl
  rw [accumulated_get_toNat, count_sourceBytes, Table.get_fill, hzero]
  omega

/-! ### The four statements -/

/-- Settles O15: the answer `exec_freqClear` gives, read entry by entry. -/
theorem freqClearZeroesTheCounters : Obligations.FreqClearZeroesTheCounters :=
  ⟨by decide, fun s => ⟨_, exec_freqClear s, Table.get_fill 0, rfl, rfl⟩⟩

/-- Settles O16: the sums are exact in `accumulated_get_toNat` and `someSaturates_iff`, and Count of the source bytes is
the number of positions. -/
theorem freqAccumAddsTheCounts : Obligations.FreqAccumAddsTheCounts := by
  refine ⟨by decide, fun s => ⟨fun hr => ⟨_, exec_freqAccum_of_inRange hr, fun x => ?_, ?_, rfl⟩,
    exec_freqAccum_of_not_inRange⟩⟩
  · rw [← count_sourceBytes]
    exact accumulated_get_toNat ..
  · simp only [← count_sourceBytes, ← someSaturates_iff]
    exact Bool.or_eq_true_iff ..

/-- Settles O17, by `accumulated_append`; the bound on the exact sums is not needed, as saturation too is associative. -/
theorem chunkedAccumulationIsOneAccumulation : Obligations.ChunkedAccumulationIsOneAccumulation := by
  intro s u v t₁ t₂ t h₁ ok₁ hu h₂ ok₂ hv hbytes h ok _
  calc t₂.freq = accumulated u.freq u.sourceBytes := freq_of_freqAccum_ok h₂ ok₂
    _ = accumulated (accumulated s.freq s.sourceBytes) u.sourceBytes := by rw [hu, freq_of_freqAccum_ok h₁ ok₁]
    _ = accumulated v.freq v.sourceBytes := by rw [← accumulated_append, hv, hbytes]
    _ = t.freq := (freq_of_freqAccum_ok h ok).symm

/-- Settles O18: the counts are exact, so a symbol is present exactly where its counter is not 0; a source that is not
empty holds its first byte. -/
theorem clearThenAccumIsTheFrequencyTable : Obligations.ClearThenAccumIsTheFrequencyTable := by
  intro s t v u hclear hfreq hr haccum
  obtain rfl := Host.Outcome.next.inj ((exec_freqClear s).symm.trans hclear)
  obtain rfl := Host.Outcome.next.inj ((exec_freqAccum_of_inRange hr).symm.trans haccum)
  rw [State.complete_freq, State.withFreq_freq] at hfreq
  rw [State.complete_freq, State.withFreq_freq, hfreq]
  have hcount := accumulated_fill_zero_toNat v
  refine ⟨hcount, fun x => ?_, fun hzero => ?_, fun hempty x => BitVec.eq_of_toNat_eq ?_⟩
  · rw [hcount]
    exact occurrences_pos_iff v x
  · by_contra hne
    have hpos : 0 < v.latch.srcLen.toNat := Nat.pos_of_ne_zero fun h0 => hne (BitVec.eq_of_toNat_eq h0)
    have hfirst : 0 < v.occurrences (v.sourceByte 0) := (occurrences_pos_iff ..).mpr ⟨0, hpos, rfl⟩
    rw [← hcount, hzero] at hfirst
    exact absurd hfirst (by decide)
  · have hlen := occurrences_le_srcLen v x
    rw [hempty] at hlen
    rw [hcount]
    exact Nat.le_zero.mp hlen

end Sys2Proof.Machine
end

section
/-! The order of the working list: the leaves ascend by weight and symbol, and a new node goes to its place among the
weights (41_tree_and_codes R171, R172). -/

namespace Sys2Proof.Machine

/-- A working list of non-decreasing weight (41_tree_and_codes R174). -/
def WeightOrdered (l : List Entry) : Prop := l.Pairwise (fun a b => a.weight ≤ b.weight)

theorem insertPos_cons_of_lt {e : Entry} {w : Nat} (l : List Entry) (h : e.weight < w) :
    insertPos (e :: l) w = insertPos l w + 1 := by
  simp [insertPos, h]

/-- No entry is strictly smaller where none of an ordered list's first is. -/
theorem insertPos_cons_of_le {e : Entry} {w : Nat} {l : List Entry} (hl : WeightOrdered (e :: l))
    (h : w ≤ e.weight) : insertPos (e :: l) w = 0 := by
  refine List.countP_eq_zero.mpr fun f hf => ?_
  have hef : e.weight ≤ f.weight := (List.mem_cons.mp hf).elim (fun h => h ▸ le_rfl) (List.rel_of_pairwise_cons hl)
  simpa using h.trans hef

/-- In an ordered list the entries before InsertPos are exactly the strictly smaller ones. -/
theorem insertPos_splits {l : List Entry} (hl : WeightOrdered l) (w : Nat) :
    (∀ e ∈ l.take (insertPos l w), e.weight < w) ∧ ∀ e ∈ l.drop (insertPos l w), w ≤ e.weight := by
  induction l with
  | nil => simp
  | cons e rest ih =>
    rcases lt_or_ge e.weight w with h | h
    · obtain ⟨hbefore, hafter⟩ := ih hl.of_cons
      rw [insertPos_cons_of_lt rest h]
      exact ⟨List.forall_mem_cons.mpr ⟨h, hbefore⟩, hafter⟩
    · rw [insertPos_cons_of_le hl h]
      refine ⟨by simp, List.forall_mem_cons.mpr ⟨h, fun f hf => h.trans (List.rel_of_pairwise_cons hl hf)⟩⟩

theorem weightOrdered_insertEntry {l : List Entry} (hl : WeightOrdered l) (n : Entry) :
    WeightOrdered (insertEntry l n) := by
  obtain ⟨hbefore, hafter⟩ := insertPos_splits hl n.weight
  have hsplit : WeightOrdered (l.take (insertPos l n.weight) ++ l.drop (insertPos l n.weight)) := by
    rwa [List.take_append_drop]
  obtain ⟨htake, hdrop, hcross⟩ := List.pairwise_append.mp hsplit
  refine List.pairwise_append.mpr ⟨htake, List.pairwise_cons.mpr ⟨hafter, hdrop⟩, fun e he => ?_⟩
  exact List.forall_mem_cons.mpr ⟨(hbefore e he).le, hcross e he⟩

/-- Settles O19: the new node stands at InsertPos, which splits the list by the weights (`insertPos_splits`). -/
theorem newNodeGoesBeforeEqualWeights : Obligations.NewNodeGoesBeforeEqualWeights := by
  intro l n hl
  obtain ⟨hbefore, hafter⟩ := insertPos_splits hl n.weight
  exact ⟨_, _, (List.take_append_drop ..).symm, rfl, hbefore, hafter, weightOrdered_insertEntry hl n⟩

theorem weightOrdered_mergeStep {l : List Entry} (hl : WeightOrdered l) : WeightOrdered (mergeStep l) := by
  match l with
  | [] => exact hl
  | [_] => exact hl
  | _ :: _ :: _ => exact weightOrdered_insertEntry hl.of_cons.of_cons _

/-! ### The initial list -/

/-- What the leaves are ordered by: the weight, then the symbol (41_tree_and_codes R171). -/
def leafKey (p : Nat × Byte) : Nat ×ₗ Nat := toLex (p.1, p.2.toNat)

theorem leafKey_injective : Function.Injective leafKey := by
  intro p q h
  obtain ⟨hweight, hsymbol⟩ := Prod.mk.inj (toLex.injective h)
  exact Prod.ext hweight (BitVec.eq_of_toNat_eq hsymbol)

theorem leafBefore_iff (x y : Nat × Byte) : leafBefore x y = true ↔ leafKey x < leafKey y := by
  simp [leafBefore, leafKey, Prod.Lex.toLex_lt_toLex]

/-- A list of leaves that ascends by weight and symbol. -/
def LeavesAscend (l : List (Nat × Byte)) : Prop := l.Pairwise (fun x y => leafKey x ≤ leafKey y)

theorem leavesAscend_insertLeaf (x : Nat × Byte) {l : List (Nat × Byte)} (hl : LeavesAscend l) :
    LeavesAscend (insertLeaf x l) := by
  induction l with
  | nil => exact List.pairwise_singleton ..
  | cons y rest ih =>
    obtain ⟨hy, hrest⟩ := List.pairwise_cons.mp hl
    rw [insertLeaf]
    split
    case isTrue h =>
      have hxy := ((leafBefore_iff x y).mp h).le
      exact hl.cons (List.forall_mem_cons.mpr ⟨hxy, fun z hz => hxy.trans (hy z hz)⟩)
    case isFalse h =>
      have hyx : leafKey y ≤ leafKey x := not_lt.mp fun hlt => h ((leafBefore_iff x y).mpr hlt)
      refine (ih hrest).cons fun z hz => ?_
      exact (List.mem_cons.mp ((insertLeaf_perm x rest).mem_iff.mp hz)).elim (fun h => h ▸ hyx) (hy z)

theorem leavesAscend_presentLeaves (freq : Table Word) : LeavesAscend (presentLeaves freq) := by
  unfold presentLeaves
  induction (freq.pairs.filter (fun e => e.2 != 0)).map (fun e => (e.2.toNat, e.1)) with
  | nil => exact .nil
  | cons x l ih => exact leavesAscend_insertLeaf x ih

theorem weightOrdered_initialList (freq : Table Word) : WeightOrdered (initialList freq) :=
  List.pairwise_map.mpr ((leavesAscend_presentLeaves freq).imp fun h => Prod.Lex.monotone_fst_ofLex h)

end Sys2Proof.Machine
end

section
/-! The tree BUILD_CODES builds: its leaves are the present symbols (41_tree_and_codes R171, R174 to R176). -/

namespace Sys2Proof.Machine

/-- The present symbols, those with a non-zero counter, in ascending order (40_frequency R155). -/
def presentSymbols (freq : Table Word) : List Byte := symbols.filter (fun x => freq.get x != 0)

@[simp] theorem mem_presentSymbols (freq : Table Word) (x : Byte) : x ∈ presentSymbols freq ↔ freq.get x ≠ 0 := by
  simp [presentSymbols, mem_symbols]

theorem presentSymbols_nodup (freq : Table Word) : (presentSymbols freq).Nodup :=
  (symbols_pairwise.imp BitVec.ne_of_lt).filter _

/-- The pairs with a non-zero counter are those of the present symbols. -/
theorem pairs_filter_present (freq : Table Word) :
    freq.pairs.filter (fun e => e.2 != 0) = (presentSymbols freq).map (fun x => (x, freq.get x)) := by
  rw [Table.pairs_eq, List.filter_map]
  rfl

theorem presentCount_eq_length (freq : Table Word) : presentCount freq = (presentSymbols freq).length := by
  rw [presentCount, pairs_filter_present, List.length_map]

theorem presentLeaves_perm_presentSymbols (freq : Table Word) :
    (presentLeaves freq).Perm ((presentSymbols freq).map (fun x => ((freq.get x).toNat, x))) := by
  have h := presentLeaves_perm freq
  rwa [pairs_filter_present, List.map_map] at h

theorem forestLeaves_initialList_perm (freq : Table Word) :
    (forestLeaves (initialList freq)).Perm (presentSymbols freq) := by
  have h := (presentLeaves_perm_presentSymbols freq).map Prod.snd
  rwa [List.map_map, ← forestLeaves_initialList, Function.comp_def, List.map_id'] at h

theorem initialList_length (freq : Table Word) : (initialList freq).length = (presentSymbols freq).length := by
  rw [initialList, List.length_map, (presentLeaves_perm_presentSymbols freq).length_eq, List.length_map]

/-- `n` merges bring a list of n + 1 entries down to its root (41_tree_and_codes R174). -/
theorem mergeSteps_length {n : Nat} {l : List Entry} (h : l.length = n + 1) : (mergeSteps n l).length = 1 := by
  induction n generalizing l with
  | zero => exact h
  | succ k ih =>
    match l with
    | a :: b :: rest => exact ih (by rw [mergeStep_length, h]; rfl)

/-- A built tree is the root that the merges of the initial list leave. -/
theorem mergeSteps_of_buildTree {freq : Table Word} {t : Tree} (h : buildTree freq = some t) :
    ∃ n w, (initialList freq).length = n + 1 ∧ mergeSteps n (initialList freq) = [⟨w, t⟩] := by
  obtain ⟨e, he, rfl⟩ := Option.map_eq_some_iff.mp h
  cases hn : (initialList freq).length with
  | zero =>
    rw [List.length_eq_zero_iff.mp hn] at he
    cases he
  | succ n =>
    rw [hn, Nat.add_sub_cancel] at he
    obtain ⟨r, hr⟩ := List.length_eq_one_iff.mp (mergeSteps_length hn)
    rw [hr] at he
    cases he
    exact ⟨n, e.weight, rfl, hr⟩

/-- The leaves of the built tree are the present symbols (41_tree_and_codes R171). -/
theorem buildTree_leaves_perm {freq : Table Word} {t : Tree} (h : buildTree freq = some t) :
    t.leaves.Perm (presentSymbols freq) := by
  obtain ⟨n, w, -, hroot⟩ := mergeSteps_of_buildTree h
  have hperm := forestLeaves_mergeSteps n (initialList freq)
  rw [hroot, forestLeaves, List.flatMap_singleton] at hperm
  exact hperm.trans (forestLeaves_initialList_perm freq)

/-- There is no tree only where no symbol is present (41_tree_and_codes R176). -/
theorem presentSymbols_of_buildTree_none {freq : Table Word} (h : buildTree freq = none) :
    presentSymbols freq = [] := by
  by_contra hne
  have hlen : (initialList freq).length = (presentSymbols freq).length - 1 + 1 := by
    rw [initialList_length, Nat.sub_add_cancel (List.length_pos_iff.mpr hne)]
  obtain ⟨r, hr⟩ := List.length_eq_one_iff.mp (mergeSteps_length hlen)
  rw [buildTree, hlen, Nat.add_sub_cancel, hr] at h
  cases h

end Sys2Proof.Machine
end

section
/-! The codes of a tree's leaves, and the table BUILD_CODES makes of FREQ (41_tree_and_codes R177 to R183). -/

namespace Sys2Proof.Machine

/-- A tree's leaves with the codes AssignCodes gives them: the paths, but 0 for a lone leaf (41_tree_and_codes R177,
R178). -/
def Tree.codes : Tree → List (Byte × Code)
  | .leaf x => [(x, [false])]
  | .node l r => leafPaths (.node l r) []

theorem assignCodes_some (t : Tree) : assignCodes (some t) = tableOf t.codes := by
  cases t <;> rfl

theorem leafPaths_symbols (t : Tree) (path : Code) : (leafPaths t path).map Prod.fst = t.leaves := by
  induction t generalizing path with
  | leaf x => rfl
  | node l r ihl ihr => rw [leafPaths, List.map_append, ihl, ihr, Tree.leaves]

theorem Tree.codes_symbols (t : Tree) : t.codes.map Prod.fst = t.leaves := by
  cases t with
  | leaf x => rfl
  | node l r => exact leafPaths_symbols ..

theorem Tree.code_ne_nil {t : Tree} {e : Byte × Code} (h : e ∈ t.codes) : e.2 ≠ [] := by
  cases t with
  | leaf x => simp_all [Tree.codes]
  | node l r =>
    rcases List.mem_append.mp h with h | h <;>
      exact (prefix_of_mem_leafPaths h).ne_nil (by simp)

/-- A lone leaf has a code of one bit, and a leaf among others one shorter than their number (41_tree_and_codes
R182). -/
theorem Tree.code_length {t : Tree} {x : Byte} {c : Code} (h : (x, c) ∈ t.codes) :
    t.leaves.length = 1 ∧ c.length = 1 ∨ 2 ≤ t.leaves.length ∧ c.length < t.leaves.length := by
  cases t with
  | leaf y => exact .inl ⟨rfl, by simp_all [Tree.codes]⟩
  | node l r =>
    have hl := l.leaves_length_pos
    have hr := r.leaves_length_pos
    have hlen := leafPaths_length h
    rw [List.length_nil, Nat.zero_add] at hlen
    exact .inr ⟨by rw [Tree.leaves, List.length_append]; omega, hlen⟩

/-- With distinct symbols, the table of a list gives each entry's symbol its code. -/
theorem tableOf_get_of_nodup {l : List (Byte × Code)} (hl : (l.map Prod.fst).Nodup) {e : Byte × Code} (h : e ∈ l) :
    (tableOf l).get e.1 = e.2 := by
  obtain ⟨before, after, rfl⟩ := List.append_of_mem h
  rw [List.map_append, List.map_cons] at hl
  have hbefore : ∀ f ∈ before, (e.1 != f.1) = true := fun f hf =>
    bne_iff_ne.mpr fun heq => (List.nodup_append.mp hl).2.2 f.1 (List.mem_map_of_mem hf) e.1 List.mem_cons_self heq.symm
  rw [tableOf_get, List.lookup_eq_some_iff.mpr ⟨before, after, rfl, hbefore⟩, Option.getD_some]

theorem builtCodes_of_tree {freq : Table Word} {t : Tree} (h : buildTree freq = some t) :
    builtCodes freq = tableOf t.codes := by
  rw [builtCodes, h, assignCodes_some]

theorem builtCodes_of_no_tree {freq : Table Word} (h : buildTree freq = none) : builtCodes freq = emptyCode := by
  rw [builtCodes, h]
  rfl

/-- Every leaf of the built tree gets its own code. -/
theorem builtCodes_get {freq : Table Word} {t : Tree} (h : buildTree freq = some t) {e : Byte × Code}
    (he : e ∈ t.codes) : (builtCodes freq).get e.1 = e.2 := by
  rw [builtCodes_of_tree h]
  refine tableOf_get_of_nodup ?_ he
  rw [Tree.codes_symbols]
  exact (buildTree_leaves_perm h).nodup_iff.mpr (presentSymbols_nodup freq)

/-- A present symbol stands among the built tree's leaves with the code it is given. -/
theorem mem_codes_of_present {freq : Table Word} {x : Byte} (hx : freq.get x ≠ 0) :
    ∃ t, buildTree freq = some t ∧ (x, (builtCodes freq).get x) ∈ t.codes := by
  have hmem := (mem_presentSymbols freq x).mpr hx
  cases h : buildTree freq with
  | none => simp [presentSymbols_of_buildTree_none h] at hmem
  | some t =>
    have hleaf := (buildTree_leaves_perm h).mem_iff.mpr hmem
    rw [← Tree.codes_symbols] at hleaf
    obtain ⟨e, he, rfl⟩ := List.mem_map.mp hleaf
    exact ⟨t, rfl, (builtCodes_get h he).symm ▸ he⟩

/-- A code is given to the present symbols alone. -/
theorem present_of_builtCodes {freq : Table Word} {x : Byte} (h : (builtCodes freq).get x ≠ []) : freq.get x ≠ 0 := by
  cases ht : buildTree freq with
  | none => simp [builtCodes_of_no_tree ht] at h
  | some t =>
    rw [builtCodes_of_tree ht] at h
    have hmem := List.mem_map_of_mem (f := Prod.fst) ((tableOf_get_cases t.codes x).resolve_left h)
    rw [Tree.codes_symbols, (buildTree_leaves_perm ht).mem_iff] at hmem
    exact (mem_presentSymbols freq x).mp hmem

theorem builtCodes_get_ne_nil_iff (freq : Table Word) (x : Byte) : (builtCodes freq).get x ≠ [] ↔ freq.get x ≠ 0 := by
  refine ⟨present_of_builtCodes, fun hx => ?_⟩
  obtain ⟨t, -, hmem⟩ := mem_codes_of_present hx
  exact Tree.code_ne_nil hmem

theorem builtCodes_get_eq_nil {freq : Table Word} {x : Byte} (hx : freq.get x = 0) : (builtCodes freq).get x = [] := by
  by_contra h
  exact present_of_builtCodes h hx

theorem presentSymbols_of_sole {freq : Table Word} {x : Byte} (hx : freq.get x ≠ 0)
    (hy : ∀ y, y ≠ x → freq.get y = 0) : presentSymbols freq = [x] := by
  refine List.perm_singleton.mp ((List.perm_ext_iff_of_nodup (presentSymbols_nodup freq) (List.nodup_singleton x)).mpr
    fun y => ?_)
  rw [mem_presentSymbols, List.mem_singleton]
  exact ⟨not_imp_comm.mp (hy y), fun h => h ▸ hx⟩

/-- The sole symbol's code is 0 (41_tree_and_codes R178). -/
theorem builtCodes_get_of_sole {freq : Table Word} {x : Byte} (hx : freq.get x ≠ 0)
    (hy : ∀ y, y ≠ x → freq.get y = 0) : (builtCodes freq).get x = [false] := by
  obtain ⟨t, ht, hmem⟩ := mem_codes_of_present hx
  have hleaves : t.leaves = [x] := List.perm_singleton.mp (presentSymbols_of_sole hx hy ▸ buildTree_leaves_perm ht)
  cases t with
  | leaf y => simpa [Tree.codes] using congrArg Prod.snd (List.mem_singleton.mp hmem)
  | node l r =>
    have := congrArg List.length hleaves
    rw [Tree.leaves, List.length_append, List.length_singleton] at this
    have hl := l.leaves_length_pos
    have hr := r.leaves_length_pos
    omega

/-! ### The statements -/

theorem exec_buildCodes (s : State) : exec .buildCodes s = .next ((s.withCode (builtCodes s.freq)).complete .ok) := rfl

/-- What BUILD_CODES leaves in CODE. -/
theorem code_of_buildCodes {s t : State} (h : exec .buildCodes s = .next t) : t.code = builtCodes s.freq := by
  obtain rfl := Host.Outcome.next.inj ((exec_buildCodes s).symm.trans h)
  rfl

/-- Settles O20: the answer `exec_buildCodes` gives, whose CODE is a function of FREQ. -/
theorem buildCodesChangesOnlyCode : Obligations.BuildCodesChangesOnlyCode := by
  refine ⟨fun s => ⟨_, exec_buildCodes s, rfl⟩, fun s u t v hfreq ht hv => ?_⟩
  rw [code_of_buildCodes ht, code_of_buildCodes hv, hfreq]

/-- Settles O21: the leaves of the built tree are the present symbols, and no leaf has an empty code. -/
theorem buildCodesCodesExactlyThePresentSymbols : Obligations.BuildCodesCodesExactlyThePresentSymbols := by
  intro s t h x
  rw [code_of_buildCodes h]
  exact builtCodes_get_ne_nil_iff s.freq x

/-- Settles O22: an absent symbol has no code, and a lone leaf has the code 0. -/
theorem noSymbolAndSingleSymbolCodes : Obligations.NoSymbolAndSingleSymbolCodes := by
  intro s t h
  rw [code_of_buildCodes h]
  exact ⟨fun hzero x => builtCodes_get_eq_nil (hzero x), fun x hx hothers =>
    ⟨builtCodes_get_of_sole hx hothers, fun y hy => builtCodes_get_eq_nil (hothers y hy)⟩⟩

/-- Settles O24: the paths to distinct leaves part at a node (`codeOk_builtCodes`). -/
theorem builtCodeIsPrefixFree : Obligations.BuiltCodeIsPrefixFree := by
  intro s t h
  rw [code_of_buildCodes h]
  exact (codeOk_builtCodes s.freq).1

/-- Settles O25: a path is shorter than the number of leaves (`Tree.code_length`), and every code fits in 255 bits. -/
theorem builtCodeLengths : Obligations.BuiltCodeLengths := by
  intro s t h x hx
  rw [code_of_buildCodes h, presentCount_eq_length]
  obtain ⟨tree, htree, hmem⟩ := mem_codes_of_present hx
  have hlen := Tree.code_length hmem
  rw [(buildTree_leaves_perm htree).length_eq] at hlen
  refine ⟨List.length_pos_iff.mpr (Tree.code_ne_nil hmem), ?_, ?_, (codeOk_builtCodes s.freq).2 x⟩ <;> omega

end Sys2Proof.Machine
end

section
/-! The tie-break on four equal weights (41_tree_and_codes R171 to R173, R177). -/

namespace Sys2Proof.Machine

theorem presentSymbols_eq {freq : Table Word} {l : List Byte} (hl : l.Pairwise (· < ·))
    (hmem : ∀ x, x ∈ l ↔ freq.get x ≠ 0) : presentSymbols freq = l := by
  have hirrefl : Std.Irrefl (fun x y : Byte => x < y) := ⟨BitVec.lt_irrefl⟩
  have hanti : Std.Antisymm (fun x y : Byte => x < y) := ⟨fun _ _ h k => absurd k (BitVec.lt_asymm h)⟩
  exact (symbols_pairwise.filter _).eq_of_mem_iff hl fun x => (mem_presentSymbols freq x).trans (hmem x).symm

/-- Leaves of one weight stand in the order of their symbols. -/
theorem presentLeaves_of_equal_weights {freq : Table Word} {k : Word}
    (hequal : ∀ x ∈ presentSymbols freq, freq.get x = k) :
    presentLeaves freq = (presentSymbols freq).map (fun x => (k.toNat, x)) := by
  have hperm := presentLeaves_perm_presentSymbols freq
  rw [List.map_congr_left fun x hx => by rw [hequal x hx]] at hperm
  have hascend : LeavesAscend ((presentSymbols freq).map (fun x => (k.toNat, x))) :=
    List.pairwise_map.mpr ((symbols_pairwise.filter _).imp fun {x y} h =>
      show leafKey (k.toNat, x) ≤ leafKey (k.toNat, y) from
        Prod.Lex.toLex_le_toLex.mpr (.inr ⟨rfl, (BitVec.lt_def.mp h).le⟩))
  exact hperm.eq_of_pairwise (fun _ _ _ _ h k => leafKey_injective (le_antisymm h k))
    (leavesAscend_presentLeaves freq) hascend

/-- Four leaves of weight `k`: the first two merge and go last, the other two merge and go before them. -/
theorem mergeSteps_four_equal {k : Nat} (hk : 0 < k) (w x y z : Tree) :
    mergeSteps 3 [⟨k, w⟩, ⟨k, x⟩, ⟨k, y⟩, ⟨k, z⟩] = [⟨k + k + (k + k), .node (.node y z) (.node w x)⟩] := by
  have hfirst : insertEntry [⟨k, y⟩, ⟨k, z⟩] ⟨k + k, .node w x⟩ = [⟨k, y⟩, ⟨k, z⟩, ⟨k + k, .node w x⟩] := by
    simp [insertEntry, insertPos, hk]
  have hsecond : insertEntry [⟨k + k, .node w x⟩] ⟨k + k, .node y z⟩ =
      [⟨k + k, .node y z⟩, ⟨k + k, .node w x⟩] := by
    simp [insertEntry, insertPos]
  simp only [mergeSteps, mergeStep, hfirst, hsecond]
  rfl

theorem buildTree_four_equal {freq : Table Word} {w x y z : Byte} {k : Word} (hk : k ≠ 0)
    (hsymbols : presentSymbols freq = [w, x, y, z]) (hequal : ∀ a ∈ presentSymbols freq, freq.get a = k) :
    buildTree freq = some (.node (.node (.leaf y) (.leaf z)) (.node (.leaf w) (.leaf x))) := by
  have hpos : 0 < k.toNat := Nat.pos_of_ne_zero fun h => hk (BitVec.eq_of_toNat_eq h)
  have hroot := mergeSteps_four_equal hpos (.leaf w) (.leaf x) (.leaf y) (.leaf z)
  rw [buildTree, initialList, presentLeaves_of_equal_weights hequal, hsymbols]
  exact congrArg (fun l : List Entry => l.head?.map Entry.tree) hroot

/-- Settles O23: the codes are the paths in the tree of `buildTree_four_equal`. -/
theorem fourEqualWeightsShowTheTieBreak : Obligations.FourEqualWeightsShowTheTieBreak := by
  intro s t w x y z k h hk hwx hxy hyz hw hx hy hz habsent
  have hequal : ∀ a ∈ [w, x, y, z], s.freq.get a = k := by simp [hw, hx, hy, hz]
  have hsymbols : presentSymbols s.freq = [w, x, y, z] := by
    refine presentSymbols_eq (by simp [BitVec.lt_def]; omega) fun a => ⟨fun ha => hequal a ha ▸ hk, fun ha => ?_⟩
    by_contra hnot
    simp only [List.mem_cons, List.not_mem_nil, or_false, not_or] at hnot
    obtain ⟨haw, hax, hay, haz⟩ := hnot
    exact ha (habsent a haw hax hay haz)
  have hcode (e : Byte × Code) := builtCodes_get (e := e) (buildTree_four_equal hk hsymbols (hsymbols ▸ hequal))
  rw [code_of_buildCodes h]
  refine ⟨hcode (w, _) ?_, hcode (x, _) ?_, hcode (y, _) ?_, hcode (z, _) ?_⟩ <;> simp [Tree.codes, leafPaths]

end Sys2Proof.Machine
end

section
/-! Kraft sums: what the code lengths of a prefix-free code have, and what they leave room for (41_tree_and_codes
R184). -/

namespace Sys2Proof.Machine

/-- Non-empty words none of which is a prefix of another are uniquely decodable. -/
theorem uniquelyDecodable_of_prefixFree {S : Set Code} (hne : [] ∉ S)
    (hfree : ∀ u ∈ S, ∀ v ∈ S, u <+: v → u = v) : InformationTheory.UniquelyDecodable S := by
  intro us
  induction us with
  | nil =>
    rintro (_ | ⟨v, vs⟩) _ hvs hflat
    · rfl
    · rw [List.flatten_nil, List.flatten_cons, List.nil_eq, List.append_eq_nil_iff] at hflat
      exact absurd (hflat.1 ▸ hvs v List.mem_cons_self) hne
  | cons u us ih =>
    rintro (_ | ⟨v, vs⟩) hus hvs hflat
    · rw [List.flatten_nil, List.flatten_cons, List.append_eq_nil_iff] at hflat
      exact absurd (hflat.1 ▸ hus u List.mem_cons_self) hne
    · obtain ⟨hu, hus⟩ := List.forall_mem_cons.mp hus
      obtain ⟨hv, hvs'⟩ := List.forall_mem_cons.mp hvs
      rw [List.flatten_cons, List.flatten_cons] at hflat
      have huv : u = v := by
        rcases List.prefix_or_prefix_of_prefix ⟨_, hflat⟩ (List.prefix_append v vs.flatten) with h | h
        · exact hfree u hu v hv h
        · exact (hfree v hv u hu h).symm
      subst huv
      rw [ih vs hus hvs' (List.append_cancel_left hflat)]

/-- Σ 2^-len over a list of code lengths. -/
noncomputable def kraftSum (ls : List Nat) : ℝ := (ls.map (fun k => (1 / 2 : ℝ) ^ k)).sum

@[simp] theorem kraftSum_cons (k : Nat) (ls : List Nat) : kraftSum (k :: ls) = (1 / 2) ^ k + kraftSum ls := by
  simp [kraftSum]

theorem kraftSum_perm {ls ks : List Nat} (h : ls.Perm ks) : kraftSum ls = kraftSum ks := (h.map _).sum_eq

theorem kraftSum_nonneg (ls : List Nat) : 0 ≤ kraftSum ls :=
  List.sum_nonneg fun x hx => by
    obtain ⟨k, -, rfl⟩ := List.mem_map.mp hx
    positivity

/-- Lengths up to `m` fill a whole number of the 2^m leaves at depth `m`. -/
theorem exists_kraftSum_eq {m : Nat} {ls : List Nat} (h : ∀ k ∈ ls, k ≤ m) :
    ∃ n : Nat, kraftSum ls = n * (1 / 2) ^ m := by
  induction ls with
  | nil => exact ⟨0, by simp [kraftSum]⟩
  | cons k ks ih =>
    obtain ⟨hk, hks⟩ := List.forall_mem_cons.mp h
    obtain ⟨n, hn⟩ := ih hks
    have hpow : (1 / 2 : ℝ) ^ k = 2 ^ (m - k) * (1 / 2) ^ m := by
      obtain ⟨d, rfl⟩ := Nat.exists_eq_add_of_le hk
      rw [Nat.add_sub_cancel_left, pow_add, mul_left_comm, ← mul_pow]
      norm_num
    refine ⟨2 ^ (m - k) + n, ?_⟩
    rw [kraftSum_cons, hn, hpow]
    push_cast
    ring

/-- Where all other lengths are at most `m`, `m` bits are enough for the first: the room taken at depth `m` is a whole
number of leaves. -/
theorem kraftSum_cons_le_one_of_le {m k : Nat} {ls : List Nat} (hls : ∀ j ∈ ls, j ≤ m)
    (h : kraftSum (k :: ls) ≤ 1) : kraftSum (m :: ls) ≤ 1 := by
  obtain ⟨n, hn⟩ := exists_kraftSum_eq hls
  have hone : (1 : ℝ) = 2 ^ m * (1 / 2) ^ m := by
    rw [← mul_pow]
    norm_num
  have hpos : (0 : ℝ) < (1 / 2) ^ m := by positivity
  have hk : (0 : ℝ) < (1 / 2) ^ k := by positivity
  rw [kraftSum_cons, hn] at h
  have hlt : n < 2 ^ m := by
    have : (n : ℝ) < 2 ^ m := lt_of_mul_lt_mul_right (by linarith) hpos.le
    exact_mod_cast this
  have hle : (1 + n : ℝ) ≤ 2 ^ m := by exact_mod_cast (by omega : 1 + n ≤ 2 ^ m)
  calc kraftSum (m :: ls) = (1 + n) * (1 / 2) ^ m := by rw [kraftSum_cons, hn]; ring
    _ ≤ 2 ^ m * (1 / 2) ^ m := mul_le_mul_of_nonneg_right hle hpos.le
    _ = 1 := hone.symm

/-- Two codes of `m` + 1 bits take the room of one of `m` bits. -/
theorem kraftSum_siblings (m : Nat) (ls : List Nat) : kraftSum ((m + 1) :: (m + 1) :: ls) = kraftSum (m :: ls) := by
  simp only [kraftSum_cons, pow_succ]
  ring

/-- Kraft's inequality for the codes a prefix-free table gives to distinct symbols. -/
theorem kraftSum_le_one {c : Table Code} (hc : PrefixFree c) {xs : List Byte} (hnodup : xs.Nodup)
    (hcoded : ∀ x ∈ xs, c.get x ≠ []) : kraftSum (xs.map (fun x => (c.get x).length)) ≤ 1 := by
  have heq : ∀ x ∈ xs, ∀ y ∈ xs, c.get x <+: c.get y → x = y := fun x hx y hy h => by
    by_contra hne
    exact hc x y hne (hcoded x hx) (hcoded y hy) h
  have hcodes : (xs.map c.get).Nodup := hnodup.map_on fun x hx y hy h => heq x hx y hy (h ▸ List.prefix_rfl)
  have hdecodable : InformationTheory.UniquelyDecodable ((xs.map c.get).toFinset : Set Code) := by
    refine uniquelyDecodable_of_prefixFree (by simpa using hcoded) fun u hu v hv h => ?_
    rw [List.coe_toFinset] at hu hv
    obtain ⟨x, hx, rfl⟩ := List.mem_map.mp hu
    obtain ⟨y, hy, rfl⟩ := List.mem_map.mp hv
    rw [heq x hx y hy h]
  have hkraft := InformationTheory.kraft_mcmillan_inequality hdecodable
  rw [List.sum_toFinset _ hcodes, List.map_map, Fintype.card_bool] at hkraft
  rw [kraftSum, List.map_map]
  exact hkraft

end Sys2Proof.Machine
end

section
/-! The exchange argument: the two lightest symbols may take two longest codes, of one length (41_tree_and_codes
R184). -/

namespace Sys2Proof.Machine

/-- Σ weight × length over a list of weights with code lengths. -/
def lengthCost (ps : List (Nat × Nat)) : Nat := (ps.map (fun p => p.1 * p.2)).sum

@[simp] theorem lengthCost_cons (p : Nat × Nat) (ps : List (Nat × Nat)) :
    lengthCost (p :: ps) = p.1 * p.2 + lengthCost ps := by
  simp [lengthCost]

theorem lengthCost_perm {ps qs : List (Nat × Nat)} (h : ps.Perm qs) : lengthCost ps = lengthCost qs :=
  (h.map _).sum_eq

/-- A least weight takes the longest of the lengths, at no greater cost. -/
theorem exists_longest_first {w k : Nat} {ps : List (Nat × Nat)} (hw : ∀ v ∈ ps.map Prod.fst, w ≤ v) :
    ∃ m qs, qs.map Prod.fst = ps.map Prod.fst ∧ (m :: qs.map Prod.snd).Perm (k :: ps.map Prod.snd) ∧
      (∀ q ∈ qs, q.2 ≤ m) ∧ lengthCost ((w, m) :: qs) ≤ lengthCost ((w, k) :: ps) := by
  induction ps with
  | nil => exact ⟨k, [], rfl, .refl _, by simp, le_rfl⟩
  | cons p ps ih =>
    obtain ⟨v, j⟩ := p
    obtain ⟨hv, hps⟩ := List.forall_mem_cons.mp hw
    obtain ⟨m, qs, hfst, hsnd, hmax, hcost⟩ := ih hps
    simp only [lengthCost_cons] at hcost ⊢
    have hperm : (j :: m :: qs.map Prod.snd).Perm (k :: j :: ps.map Prod.snd) := (hsnd.cons j).trans (.swap ..)
    rcases le_total j m with h | h
    · refine ⟨m, (v, j) :: qs, by simp [hfst], (List.Perm.swap ..).trans hperm, List.forall_mem_cons.mpr ⟨h, hmax⟩, ?_⟩
      simp only [lengthCost_cons]
      omega
    · refine ⟨j, (v, m) :: qs, by simp [hfst], hperm,
        List.forall_mem_cons.mpr ⟨h, fun q hq => (hmax q hq).trans h⟩, ?_⟩
      have hexchange : w * j + v * m ≤ w * m + v * j := mul_add_mul_le_mul_add_mul hv h
      simp only [lengthCost_cons]
      omega

/-- The two least weights take lengths of one size that are the longest, at no greater cost. -/
theorem exists_siblings_first {a b j k : Nat} {ps : List (Nat × Nat)} (hab : a ≤ b) (hb : ∀ v ∈ ps.map Prod.fst, b ≤ v)
    (hkraft : kraftSum (j :: k :: ps.map Prod.snd) ≤ 1) :
    ∃ m qs, qs.map Prod.fst = ps.map Prod.fst ∧ kraftSum ((m + 1) :: (m + 1) :: qs.map Prod.snd) ≤ 1 ∧
      lengthCost ((a, m + 1) :: (b, m + 1) :: qs) ≤ lengthCost ((a, j) :: (b, k) :: ps) := by
  obtain ⟨i, qs, hqfst, hqsnd, hqmax, hqcost⟩ := exists_longest_first (w := a) (k := j) (ps := (b, k) :: ps)
    (List.forall_mem_cons.mpr ⟨hab, fun v hv => hab.trans (hb v hv)⟩)
  obtain ⟨⟨b', l⟩, qs, rfl, hb', hqs⟩ := List.map_eq_cons_iff.mp hqfst
  obtain rfl : b = b' := hb'.symm
  obtain ⟨m, rs, hrfst, hrsnd, hrmax, hrcost⟩ := exists_longest_first (k := l) (hqs ▸ hb)
  have hmi : m ≤ i := by
    obtain ⟨q, hq, rfl⟩ : ∃ q ∈ (b, l) :: qs, q.2 = m := List.mem_map.mp (hrsnd.mem_iff.mp List.mem_cons_self)
    exact hqmax q hq
  have hexchanged : kraftSum (i :: m :: rs.map Prod.snd) ≤ 1 :=
    (kraftSum_perm ((hrsnd.cons i).trans hqsnd)).trans_le hkraft
  have hlengths : kraftSum (m :: m :: rs.map Prod.snd) ≤ 1 :=
    kraftSum_cons_le_one_of_le (List.forall_mem_cons.mpr ⟨le_rfl, List.forall_mem_map.mpr hrmax⟩) hexchanged
  have hcost : lengthCost ((a, m) :: (b, m) :: rs) ≤ lengthCost ((a, j) :: (b, k) :: ps) := by
    have hshort : a * m ≤ a * i := Nat.mul_le_mul_left a hmi
    simp only [lengthCost_cons] at hqcost hrcost ⊢
    omega
  obtain ⟨n, rfl⟩ : ∃ n, m = n + 1 := by
    refine Nat.exists_eq_succ_of_ne_zero fun hm => ?_
    have hrest := kraftSum_nonneg (rs.map Prod.snd)
    simp only [hm, kraftSum_cons, pow_zero] at hlengths
    linarith
  exact ⟨n, rs, hrfst.trans hqs, hlengths, hcost⟩

end Sys2Proof.Machine
end

section
/-! BUILD_CODES builds a tree of least cost: the merges cost no more than any code lengths that satisfy Kraft's
inequality (41_tree_and_codes R173, R184). -/

namespace Sys2Proof.Machine

/-- The weight of a tree: the sum over its leaves (41_tree_and_codes R173). -/
def Tree.totalWeight (f : Byte → Nat) (t : Tree) : Nat := (t.leaves.map f).sum

/-- Every merge adds one bit to the code of each leaf below it, so a tree costs the sum of its inner nodes' weights. -/
def Tree.cost (f : Byte → Nat) : Tree → Nat
  | .leaf _ => 0
  | .node l r => l.cost f + r.cost f + (l.totalWeight f + r.totalWeight f)

theorem Tree.totalWeight_node (f : Byte → Nat) (l r : Tree) :
    (Tree.node l r).totalWeight f = l.totalWeight f + r.totalWeight f := by
  simp [Tree.totalWeight, Tree.leaves]

/-- The cost of a tree is Σ weight × path length over its leaves. -/
theorem sum_leafPaths (f : Byte → Nat) (t : Tree) (path : Code) :
    ((leafPaths t path).map (fun e => f e.1 * e.2.length)).sum = t.cost f + t.totalWeight f * path.length := by
  induction t generalizing path with
  | leaf x => simp [leafPaths, Tree.cost, Tree.totalWeight, Tree.leaves]
  | node l r ihl ihr =>
    simp only [leafPaths, List.map_append, List.sum_append, ihl, ihr, Tree.cost, Tree.totalWeight_node,
      List.length_append, List.length_singleton]
    ring

/-- The cost of the trees a working list holds. -/
def forestCost (f : Byte → Nat) (l : List Entry) : Nat := (l.map (fun e => e.tree.cost f)).sum

/-- Every entry carries the weight of its tree (41_tree_and_codes R170, R173). -/
def Weighed (f : Byte → Nat) (l : List Entry) : Prop := ∀ e ∈ l, e.weight = e.tree.totalWeight f

theorem weighed_mergeStep {f : Byte → Nat} {l : List Entry} (hl : Weighed f l) : Weighed f (mergeStep l) := by
  match l with
  | [] => exact hl
  | [_] => exact hl
  | a :: b :: rest =>
    obtain ⟨ha, hb, hrest⟩ : _ ∧ _ ∧ _ := by simpa only [Weighed, List.forall_mem_cons] using hl
    intro e he
    rcases List.mem_cons.mp ((insertEntry_perm rest _).mem_iff.mp he) with rfl | he
    · simp only [ha, hb, Tree.totalWeight_node]
    · exact hrest e he

/-- A merge costs the weight of the new node. -/
theorem forestCost_mergeStep {f : Byte → Nat} {a b : Entry} {rest : List Entry} (hl : Weighed f (a :: b :: rest)) :
    forestCost f (mergeStep (a :: b :: rest)) = forestCost f (a :: b :: rest) + (a.weight + b.weight) := by
  have ha := hl a (by simp)
  have hb := hl b (by simp)
  rw [forestCost, mergeStep, ((insertEntry_perm rest _).map _).sum_eq]
  simp only [forestCost, List.map_cons, List.sum_cons, Tree.cost, ha, hb]
  ring

/-- Lengths for a list's entries, and one more for a new entry, put in the order the new list has. -/
theorem exists_lengths_insertEntry {l : List Entry} {ps : List (Nat × Nat)} (hps : ps.map Prod.fst = l.map Entry.weight)
    (w m : Nat) (t : Tree) :
    ∃ qs : List (Nat × Nat), qs.map Prod.fst = (insertEntry l ⟨w, t⟩).map Entry.weight ∧ qs.Perm ((w, m) :: ps) := by
  refine ⟨ps.take (insertPos l w) ++ (w, m) :: ps.drop (insertPos l w), ?_, ?_⟩
  · simp only [insertEntry, List.map_append, List.map_cons, List.map_take, List.map_drop, hps]
  · exact List.perm_middle.trans (.of_eq (by rw [List.take_append_drop]))

/-- The merges cost no more than any lengths for the entries that satisfy Kraft's inequality: the two lightest may take
sibling codes, and then the merged entry takes their parent's. -/
theorem forestCost_mergeSteps_le {f : Byte → Nat} {n : Nat} {l : List Entry} (hlen : l.length = n + 1)
    (hord : WeightOrdered l) (hw : Weighed f l) {ps : List (Nat × Nat)} (hps : ps.map Prod.fst = l.map Entry.weight)
    (hkraft : kraftSum (ps.map Prod.snd) ≤ 1) :
    forestCost f (mergeSteps n l) ≤ forestCost f l + lengthCost ps := by
  induction n generalizing l ps with
  | zero => exact Nat.le_add_right ..
  | succ n ih =>
    match l with
    | a :: b :: rest =>
      obtain ⟨⟨w, j⟩, ps', rfl, rfl, hps'⟩ := List.map_eq_cons_iff.mp hps
      obtain ⟨⟨v, k⟩, ps, rfl, rfl, hrest⟩ := List.map_eq_cons_iff.mp hps'
      have hab : a.weight ≤ b.weight := List.rel_of_pairwise_cons hord List.mem_cons_self
      have hb : ∀ v ∈ ps.map Prod.fst, b.weight ≤ v := by
        rw [hrest]
        exact List.forall_mem_map.mpr fun e he => List.rel_of_pairwise_cons hord.of_cons he
      obtain ⟨m, qs, hqs, hsiblings, hcost⟩ := exists_siblings_first (j := j) (k := k) hab hb hkraft
      obtain ⟨rs, hrs, hperm⟩ :=
        exists_lengths_insertEntry (hqs.trans hrest) (a.weight + b.weight) m (.node a.tree b.tree)
      have hkraft' : kraftSum (rs.map Prod.snd) ≤ 1 := by
        rwa [kraftSum_perm (hperm.map Prod.snd), List.map_cons, ← kraftSum_siblings]
      have hmerged := ih (l := mergeStep (a :: b :: rest)) (by rw [mergeStep_length, hlen]; rfl)
        (weightOrdered_mergeStep hord) (weighed_mergeStep hw) hrs hkraft'
      rw [forestCost_mergeStep hw, lengthCost_perm hperm] at hmerged
      have hparent : lengthCost ((a.weight, m + 1) :: (b.weight, m + 1) :: qs) =
          lengthCost ((a.weight + b.weight, m) :: qs) + (a.weight + b.weight) := by
        simp only [lengthCost_cons]
        ring
      rw [mergeSteps]
      omega

/-! ### Costs over the present symbols -/

/-- A symbol's weight: its counter, as a number. -/
def counterOf (freq : Table Word) (x : Byte) : Nat := (freq.get x).toNat

/-- Only present symbols cost anything. -/
theorem codeCost_eq_sum_present (freq : Table Word) (c : Table Code) :
    codeCost freq c = ((presentSymbols freq).map (fun x => counterOf freq x * (c.get x).length)).sum := by
  rw [codeCost, Table.pairs_eq, List.map_map, presentSymbols]
  induction symbols with
  | nil => rfl
  | cons x xs ih =>
    by_cases hx : freq.get x = 0#32 <;> simpa [List.filter_cons, counterOf, hx] using ih

/-- A code table costs what its lengths, listed with the weights of the initial list, cost. -/
theorem exists_lengths_of_code (freq : Table Word) (c : Table Code) :
    ∃ ps, ps.map Prod.fst = (initialList freq).map Entry.weight ∧ lengthCost ps = codeCost freq c ∧
      (ps.map Prod.snd).Perm ((presentSymbols freq).map (fun x => (c.get x).length)) := by
  have hperm := (presentLeaves_perm_presentSymbols freq).map (fun p => (p.1, (c.get p.2).length))
  rw [List.map_map] at hperm
  refine ⟨(presentLeaves freq).map (fun p => (p.1, (c.get p.2).length)), by simp [initialList], ?_, ?_⟩
  · rw [lengthCost_perm hperm, codeCost_eq_sum_present, lengthCost, List.map_map]
    rfl
  · simpa [Function.comp_def] using hperm.map Prod.snd

theorem weighed_initialList (freq : Table Word) : Weighed (counterOf freq) (initialList freq) := by
  intro e he
  obtain ⟨p, hp, rfl⟩ := List.mem_map.mp he
  obtain ⟨x, -, rfl⟩ := List.mem_map.mp ((presentLeaves_perm_presentSymbols freq).mem_iff.mp hp)
  simp [Tree.totalWeight, Tree.leaves, counterOf]

theorem forestCost_initialList (f : Byte → Nat) (freq : Table Word) : forestCost f (initialList freq) = 0 := by
  simp [forestCost, initialList, Function.comp_def, Tree.cost]

/-- The built tree costs no more than a prefix-free code for the present symbols. -/
theorem buildTree_cost_le {freq : Table Word} {t : Tree} (ht : buildTree freq = some t) {c : Table Code}
    (hc : PrefixFree c) (hcoded : ∀ x, freq.get x ≠ 0 → c.get x ≠ []) :
    t.cost (counterOf freq) ≤ codeCost freq c := by
  obtain ⟨n, w, hlen, hroot⟩ := mergeSteps_of_buildTree ht
  obtain ⟨ps, hps, hcost, hperm⟩ := exists_lengths_of_code freq c
  have hkraft : kraftSum (ps.map Prod.snd) ≤ 1 := by
    rw [kraftSum_perm hperm]
    exact kraftSum_le_one hc (presentSymbols_nodup freq) fun x hx => hcoded x ((mem_presentSymbols freq x).mp hx)
  have h := forestCost_mergeSteps_le hlen (weightOrdered_initialList freq) (weighed_initialList freq) hps hkraft
  rw [hroot, forestCost_initialList, hcost, Nat.zero_add] at h
  simpa [forestCost] using h

/-- The table BUILD_CODES makes costs what the codes of the built tree's leaves cost. -/
theorem codeCost_builtCodes {freq : Table Word} {t : Tree} (ht : buildTree freq = some t) :
    codeCost freq (builtCodes freq) = (t.codes.map (fun e => counterOf freq e.1 * e.2.length)).sum := by
  have hleaves := (buildTree_leaves_perm ht).map (fun x => counterOf freq x * ((builtCodes freq).get x).length)
  rw [← Tree.codes_symbols, List.map_map] at hleaves
  rw [codeCost_eq_sum_present]
  refine hleaves.sum_eq.symm.trans (congrArg List.sum (List.map_congr_left fun e he => ?_))
  rw [Function.comp_apply, builtCodes_get ht he]

/-- No prefix-free code for the present symbols costs less than the table BUILD_CODES makes (41_tree_and_codes R184). -/
theorem codeCost_builtCodes_le {freq : Table Word} {c : Table Code} (hc : PrefixFree c)
    (hcoded : ∀ x, freq.get x ≠ 0 → c.get x ≠ []) : codeCost freq (builtCodes freq) ≤ codeCost freq c := by
  cases ht : buildTree freq with
  | none => simp [codeCost_eq_sum_present, presentSymbols_of_buildTree_none ht]
  | some t =>
    cases t with
    | leaf x =>
      have hsole : presentSymbols freq = [x] := (List.singleton_perm.mp (buildTree_leaves_perm ht)).symm
      have hpos : 0 < (c.get x).length :=
        List.length_pos_iff.mpr (hcoded x ((mem_presentSymbols freq x).mp (by simp [hsole])))
      have hbit : (builtCodes freq).get x = [false] := builtCodes_get ht (e := (x, [false])) (by simp [Tree.codes])
      simpa [codeCost_eq_sum_present, hsole, hbit] using Nat.le_mul_of_pos_right _ hpos
    | node l r =>
      have hcost := sum_leafPaths (counterOf freq) (.node l r) []
      rw [List.length_nil, Nat.mul_zero, Nat.add_zero] at hcost
      rw [codeCost_builtCodes ht, Tree.codes, hcost]
      exact buildTree_cost_le ht hc hcoded

/-- Settles O26, by the exchange argument (`forestCost_mergeSteps_le`) and Kraft's inequality for the rival code. -/
theorem builtCodeIsOptimal : Obligations.BuiltCodeIsOptimal := by
  intro s t h
  rw [code_of_buildCodes h]
  exact ⟨fun c => codeCost_builtCodes_le, fun x hx hothers => by rw [builtCodes_get_of_sole hx hothers]; rfl⟩

end Sys2Proof.Machine
end

section
/-! The packer: the bits a writer has taken, what `finish` adds to them, and the bits of Pack(u) (42_bit_packing). -/

namespace Sys2Proof.Machine

/-- Bit 7 - i of the byte eight bits form is bit i of them (42_bit_packing R200, R201). -/
theorem byteOfBits_getLsbD {u : Code} (hu : u.length = 8) {i : Nat} (hi : i < 8) :
    (byteOfBits u).getLsbD (7 - i) = u.getD i false := by
  have hlt : 7 - i < 8 := by omega
  have hback : u.length - 1 - (7 - i) = i := by omega
  rw [byteOfBits, BitVec.getLsbD_ofNat, bitsToNat_testBit, List.getD_reverse _ (hu ▸ hlt), hback, decide_eq_true hlt,
    Bool.true_and]

theorem bitsOfByte_getD (b : Byte) {i : Nat} (hi : i < 8) : (bitsOfByte b).getD i false = b.getLsbD (7 - i) := by
  simp [bitsOfByte, hi]

theorem bitsOfByte_byteOfBits {u : Code} (hu : u.length = 8) : bitsOfByte (byteOfBits u) = u := by
  refine List.ext_getElem ((bitsOfByte_length _).trans hu.symm) fun i h₁ h₂ => ?_
  have hi : i < 8 := hu ▸ h₂
  rw [← List.getD_eq_getElem _ false h₁, ← List.getD_eq_getElem _ false h₂, bitsOfByte_getD _ hi,
    byteOfBits_getLsbD hu hi]

/-- Bit 8k + i of the unpacked sequence is bit 7 - i of byte k (42_bit_packing R200, R204). -/
theorem unpack_getD {p : List Byte} {k i : Nat} (hk : k < p.length) (hi : i < 8) :
    (unpack p).getD (8 * k + i) false = p[k].getLsbD (7 - i) := by
  induction p generalizing k with
  | nil => exact absurd hk (Nat.not_lt_zero k)
  | cons b p ih =>
    cases k with
    | zero => rw [unpack_cons, List.getD_append _ _ _ _ (by simpa using hi), Nat.mul_zero, Nat.zero_add,
        bitsOfByte_getD b hi, List.getElem_cons_zero]
    | succ k =>
      have hdrop : 8 * (k + 1) + i - (bitsOfByte b).length = 8 * k + i := by rw [bitsOfByte_length]; omega
      rw [unpack_cons, List.getD_append_right _ _ _ _ (by rw [bitsOfByte_length]; omega), hdrop,
        ih (Nat.lt_of_succ_lt_succ hk), List.getElem_cons_succ]

/-- The bits a writer has taken: those of its completed bytes, then its partial byte (42_bit_packing R201). -/
def BitWriter.taken (p : BitWriter) : Code := unpack p.bytes ++ p.acc

theorem writeBit_taken (p : BitWriter) (x : Bool) : (writeBit p x).taken = p.taken ++ [x] := by
  unfold writeBit
  split
  case isTrue h => simp [BitWriter.taken, unpack_append, bitsOfByte_byteOfBits h]
  case isFalse => simp [BitWriter.taken]

theorem writeBits_taken (p : BitWriter) (u : Code) : (writeBits p u).taken = p.taken ++ u := by
  induction u generalizing p with
  | nil => rw [writeBits_nil, List.append_nil]
  | cons x u ih => rw [writeBits_cons, ih, writeBit_taken, List.append_assoc, List.singleton_append]

theorem writeBit_acc_length {p : BitWriter} (hp : p.acc.length < 8) (x : Bool) :
    (writeBit p x).acc.length = (p.acc.length + 1) % 8 := by
  unfold writeBit
  rw [List.length_append, List.length_singleton]
  split
  case isTrue h => rw [h]; rfl
  case isFalse h => rw [List.length_append, List.length_singleton, Nat.mod_eq_of_lt (by omega)]

/-- The partial byte never fills: its length counts the bits written, modulo 8 (42_bit_packing R201). -/
theorem writeBits_acc_length {p : BitWriter} (hp : p.acc.length < 8) (u : Code) :
    (writeBits p u).acc.length = (p.acc.length + u.length) % 8 := by
  induction u generalizing p with
  | nil => exact (Nat.mod_eq_of_lt hp).symm
  | cons x u ih =>
    have hx := writeBit_acc_length hp x
    rw [writeBits_cons, ih (by omega), hx, List.length_cons]
    omega

theorem finishBits_snd {p : BitWriter} (hp : p.acc.length < 8) : (finishBits p).2 = (8 - p.acc.length) % 8 := by
  unfold finishBits
  split
  case isTrue h => rw [h]
  case isFalse h => exact (Nat.mod_eq_of_lt (by omega)).symm

/-- The finished bytes hold the bits taken and then the zeros `finish` counts (42_bit_packing R202). -/
theorem unpack_finishBits {p : BitWriter} (hp : p.acc.length < 8) :
    unpack (finishBits p).1 = p.taken ++ List.replicate (finishBits p).2 false := by
  unfold finishBits
  split
  case isTrue h => simp [BitWriter.taken, List.length_eq_zero_iff.mp h]
  case isFalse h =>
    have hacc := writeBits_acc_length hp (List.replicate (8 - p.acc.length) false)
    rw [List.length_replicate, Nat.add_sub_of_le hp.le, Nat.mod_self, List.length_eq_zero_iff] at hacc
    rw [← writeBits_taken, BitWriter.taken, hacc, List.append_nil]

/-- Pack's writer leaves the last N mod 8 bits in its partial byte (42_bit_packing R201). -/
theorem packWriter_acc_length (u : Code) : (writeBits ⟨[], []⟩ u).acc.length = u.length % 8 := by
  simpa using writeBits_acc_length (p := ⟨[], []⟩) (by decide) u

theorem packWriter_acc_lt (u : Code) : (writeBits ⟨[], []⟩ u).acc.length < 8 :=
  packWriter_acc_length u ▸ Nat.mod_lt _ (by decide)

/-- Pack's padding fills the last byte (42_bit_packing R203). -/
theorem pack_snd (u : Code) : (pack u).2 = (8 - u.length % 8) % 8 := by
  rw [pack, finishBits_snd (packWriter_acc_lt u), packWriter_acc_length]

/-- Pack's bytes hold u and then the padding's zeros (42_bit_packing R203). -/
theorem unpack_pack (u : Code) : unpack (pack u).1 = u ++ List.replicate (pack u).2 false := by
  rw [pack, unpack_finishBits (packWriter_acc_lt u), writeBits_taken]
  rfl

theorem pack_length_mul_eight (u : Code) : 8 * (pack u).1.length = u.length + (pack u).2 := by
  rw [← unpack_length, unpack_pack, List.length_append, List.length_replicate]

/-- Bit 7 - i of byte k of Pack(u) is bit 8k + i of u followed by zeros (42_bit_packing R203). -/
theorem pack_getLsbD (u : Code) {k i : Nat} (hk : k < (pack u).1.length) (hi : i < 8) :
    ((pack u).1[k]).getLsbD (7 - i) = u.getD (8 * k + i) false := by
  rw [← unpack_getD hk hi, unpack_pack]
  rcases Nat.lt_or_ge (8 * k + i) u.length with h | h
  · exact List.getD_append _ _ _ _ h
  · rw [List.getD_append_right _ _ _ _ h, List.getD_eq_default _ _ h, List.getD_eq_getElem?_getD,
      List.getElem?_getD_replicate_default_eq]

/-- A sequence written in any number of calls is written as in one (42_bit_packing R203). -/
theorem foldl_writeBits (p : BitWriter) (pieces : List Code) : pieces.foldl writeBits p = writeBits p pieces.flatten :=
  List.foldl_flatten.symm

/-- Settles O27: Pack's bytes unpack to u and then its padding (`unpack_pack`, `pack_snd`), which gives the length and
every bit; writing is a fold over the bits, so calls do not matter. -/
theorem packLengthPaddingAndBits : Obligations.PackLengthPaddingAndBits := by
  intro u
  have hlen := pack_length_mul_eight u
  have hpad := pack_snd u
  refine ⟨by omega, by omega, hpad, fun k hk i hi => pack_getLsbD u hk hi, fun pieces hpieces => ?_⟩
  rw [foldl_writeBits, hpieces, pack]

/-- Settles O28: the padding is what `unpack_pack` puts after u, so dropping it leaves u. -/
theorem retainInvertsPack : Obligations.RetainInvertsPack := by
  intro u
  have hlen := pack_length_mul_eight u
  refine ⟨by omega, ?_⟩
  rw [retain, unpack_pack, hlen, Nat.add_sub_cancel]
  exact List.take_left

end Sys2Proof.Machine
end

section
/-! ENCODE and COMPRESS: the ends of `encodeInto`, what each leaves in memory and in the result registers, and the
length of COMPRESS's container (43_encoder R222 to R234). -/

namespace Sys2Proof.Machine

/-! ### The two ends of an attempt to write a container -/

/-- The work of a success: the container of `b` under CODE stands at the destination, and the result registers tell its
sizes (43_encoder R222, R232). -/
def State.containerWritten (s : State) (b : List Byte) : State :=
  (s.deliver (containerOf s.code b)).withHeader (BitVec.ofNat 32 (pack (encodeBits s.code b)).2)
    (BitVec.ofNat 32 (serializeTable s.code).length)

theorem encodeInto_of_fits {b : List Byte} {s : State} (h : (containerOf s.code b).length ≤ s.latch.dstCap.toNat) :
    encodeInto b s = .next ((s.containerWritten b).complete .ok) := if_pos h

theorem encodeInto_of_overflows {b : List Byte} {s : State} (h : s.latch.dstCap.toNat < (containerOf s.code b).length) :
    encodeInto b s = .next (s.spoilDst.complete .dstOverflow) := if_neg (Nat.not_le.mpr h)

theorem containerOf_length (c : Table Code) (b : List Byte) :
    (containerOf c b).length = 8 + (serializeTable c).length + (pack (encodeBits c b)).1.length :=
  makeContainer_length ..

theorem toNat_ofNat_of_lt {n : Nat} (h : n < 2 ^ 32) : (BitVec.ofNat 32 n).toNat = n :=
  (BitVec.toNat_ofNat ..).trans (Nat.mod_eq_of_lt h)

/-- A number no larger than some register's value fits a register. -/
theorem toNat_ofNat_of_le {n : Nat} {w : Word} (h : n ≤ w.toNat) : (BitVec.ofNat 32 n).toNat = n :=
  toNat_ofNat_of_lt (h.trans_lt w.isLt)

theorem pack_snd_lt (u : Code) : (pack u).2 < 8 := pack_snd u ▸ Nat.mod_lt _ (by decide)

/-- A state whose memory is the old one with `out` written at the destination has exactly `out` written. -/
theorem wroteExactly_of_mem {s t : State} {out : List Byte}
    (h : t.mem = Memory.writeBytes s.mem s.latch.dstAddr.toNat out) : s.WroteExactly t out := by
  refine ⟨fun j hj => ?_, fun a ha => ?_⟩
  · rw [h, Memory.read_writeBytes, dif_pos (by omega)]
    simp only [Nat.add_sub_cancel_left]
  · rw [h, Memory.read_writeBytes_outside _ _ _ _ ha]

theorem containerWritten_wroteExactly (s : State) (b : List Byte) (e : ErrCode) :
    s.WroteExactly ((s.containerWritten b).complete e) (containerOf s.code b) :=
  wroteExactly_of_mem rfl

/-- The result registers hold the exact sizes: a container that fits is no longer than a register's value. -/
theorem containerWritten_results {s : State} {b : List Byte}
    (h : (containerOf s.code b).length ≤ s.latch.dstCap.toNat) :
    (s.containerWritten b).outLen.toNat = (containerOf s.code b).length ∧
      (s.containerWritten b).padCount.toNat = (pack (encodeBits s.code b)).2 ∧
      (s.containerWritten b).tableLen.toNat = (serializeTable s.code).length := by
  have hpad := pack_snd_lt (encodeBits s.code b)
  have hlen := containerOf_length s.code b
  have htable : (serializeTable s.code).length ≤ s.latch.dstCap.toNat := by omega
  exact ⟨toNat_ofNat_of_le h, toNat_ofNat_of_lt (by omega), toNat_ofNat_of_le htable⟩

/-- The work of COMPRESS's success, whatever FREQ, SAT and CODE it wrote on the way: nothing else changes (43_encoder
R232). -/
theorem containerWritten_frame {s t : State} {f : Table Word} {sat : Bool} {c : Table Code} {b : List Byte}
    {e : ErrCode} (h : t = (((s.withFreq f sat).withCode c).containerWritten b).complete e) :
    t = ({ s with
      mem := t.mem
      outLen := t.outLen
      padCount := t.padCount
      tableLen := t.tableLen
      freq := t.freq
      sat := t.sat
      code := t.code } : State).complete e := by
  subst h
  rfl

/-- A failure that spoils the destination leaves every other byte (20_memory R86). -/
theorem spoilDst_read_of_outsideDest (s : State) {a : Nat} (h : s.latch.OutsideDest a) :
    Memory.read s.spoilDst.mem a = Memory.read s.mem a :=
  s.spoilDst_read_outside a (Bool.eq_false_iff.mpr fun hin => (inDest_iff s.latch a).mp hin h)

theorem regionsOk_iff_legal (l : Latch) : l.regionsOk = true ↔ l.RegionsLegal := regionsOk_iff l

theorem allCoded_sourceBytes_iff (c : Table Code) (s : State) :
    allCoded c s.sourceBytes = true ↔ ∀ i, i < s.latch.srcLen.toNat → c.get (s.sourceByte i) ≠ [] := by
  rw [allCoded_iff, sourceBytes_eq_map]
  simp only [List.mem_map, List.mem_range, forall_exists_index, and_imp, forall_apply_eq_imp_iff₂]

/-! ### ENCODE -/

theorem exec_encode_of_not_legal {s : State} (h : ¬ s.latch.RegionsLegal) :
    exec .encode s = .next (s.complete .region) :=
  if_neg fun hok => h ((regionsOk_iff_legal s.latch).mp hok)

theorem exec_encode_of_codeless {s : State} (h : s.latch.RegionsLegal) (hc : allCoded s.code s.sourceBytes = false) :
    exec .encode s = .next (s.spoilDst.complete .noCode) :=
  (if_pos ((regionsOk_iff_legal s.latch).mpr h)).trans (if_neg (Bool.eq_false_iff.mp hc))

theorem exec_encode_of_coded {s : State} (h : s.latch.RegionsLegal) (hc : allCoded s.code s.sourceBytes = true) :
    exec .encode s = encodeInto s.sourceBytes s :=
  (if_pos ((regionsOk_iff_legal s.latch).mpr h)).trans (if_pos hc)

/-- Settles O31: the state a success leaves is `containerWritten`, whose bytes and result registers the lemmas above
give. -/
theorem encodeWritesTheContainer : Obligations.EncodeWritesTheContainer := by
  intro s table payload pad hlegal hcoded htable hpack hroom
  obtain ⟨rfl, rfl⟩ := Prod.ext_iff.mp hpack
  subst htable
  have hfit : (containerOf s.code s.sourceBytes).length ≤ s.latch.dstCap.toNat :=
    (containerOf_length ..).trans_le hroom
  have hrun := exec_encode_of_coded hlegal ((allCoded_sourceBytes_iff s.code s).mpr hcoded)
  obtain ⟨hout, hpad, htab⟩ := containerWritten_results hfit
  exact ⟨_, hrun.trans (encodeInto_of_fits hfit), containerWritten_wroteExactly .., hout.trans (containerOf_length ..),
    hpad, htab, rfl⟩

/-- Settles O32: the three tests of ENCODE in their order, the last two failing with the destination spoiled. -/
theorem encodeErrorsInOrder : Obligations.EncodeErrorsInOrder := by
  intro s
  refine ⟨exec_encode_of_not_legal, fun hlegal hcodeless => ?_, fun hlegal hcoded hover => ?_⟩
  · obtain ⟨i, hi, hempty⟩ := hcodeless
    have hc : allCoded s.code s.sourceBytes = false :=
      Bool.eq_false_iff.mpr fun hall => (allCoded_sourceBytes_iff s.code s).mp hall i hi hempty
    exact ⟨_, exec_encode_of_codeless hlegal hc, rfl, fun a => spoilDst_read_of_outsideDest s⟩
  · have hrun := exec_encode_of_coded hlegal ((allCoded_sourceBytes_iff s.code s).mpr hcoded)
    exact ⟨_, hrun.trans (encodeInto_of_overflows hover), rfl, fun a => spoilDst_read_of_outsideDest s⟩

/-! ### COMPRESS -/

theorem exec_compress_of_not_legal {s : State} (h : ¬ s.latch.RegionsLegal) :
    exec .compress s = .next (s.complete .region) :=
  if_neg fun hok => h ((regionsOk_iff_legal s.latch).mp hok)

theorem exec_compress_of_legal {s : State} (h : s.latch.RegionsLegal) :
    exec .compress s = encodeInto s.sourceBytes s.recoded :=
  if_pos ((regionsOk_iff_legal s.latch).mpr h)

theorem exec_compress_of_fits {s : State} (h : s.latch.RegionsLegal)
    (hfit : (containerOf s.recoded.code s.sourceBytes).length ≤ s.latch.dstCap.toNat) :
    exec .compress s = .next ((s.recoded.containerWritten s.sourceBytes).complete .ok) :=
  (exec_compress_of_legal h).trans (encodeInto_of_fits hfit)

theorem exec_compress_of_overflows {s : State} (h : s.latch.RegionsLegal)
    (hover : s.latch.dstCap.toNat < (containerOf s.recoded.code s.sourceBytes).length) :
    exec .compress s = .next (s.recoded.spoilDst.complete .dstOverflow) :=
  (exec_compress_of_legal h).trans (encodeInto_of_overflows hover)

/-- The state COMPRESS answers with, taken apart: one of its three ends. -/
theorem exec_compress_next {s t : State} (h : exec .compress s = .next t) :
    (¬ s.latch.RegionsLegal ∧ t = s.complete .region) ∨
    (s.latch.RegionsLegal ∧ (containerOf s.recoded.code s.sourceBytes).length ≤ s.latch.dstCap.toNat ∧
      t = (s.recoded.containerWritten s.sourceBytes).complete .ok) ∨
    (s.latch.RegionsLegal ∧ s.latch.dstCap.toNat < (containerOf s.recoded.code s.sourceBytes).length ∧
      t = s.recoded.spoilDst.complete .dstOverflow) := by
  by_cases hlegal : s.latch.RegionsLegal
  · rcases Nat.lt_or_ge s.latch.dstCap.toNat (containerOf s.recoded.code s.sourceBytes).length with hover | hfit
    · have ht := Host.Outcome.next.inj (h.symm.trans (exec_compress_of_overflows hlegal hover))
      exact .inr (.inr ⟨hlegal, hover, ht⟩)
    · have ht := Host.Outcome.next.inj (h.symm.trans (exec_compress_of_fits hlegal hfit))
      exact .inr (.inl ⟨hlegal, hfit, ht⟩)
  · exact .inl ⟨hlegal, Host.Outcome.next.inj (h.symm.trans (exec_compress_of_not_legal hlegal))⟩

/-- A COMPRESS that ends with OK leaves its FREQ and CODE, and has written and counted the container of its source. -/
theorem compress_ok {s t : State} (h : exec .compress s = .next t) (hok : t.errCode = .ok) :
    t.freq = s.recoded.freq ∧ t.code = s.recoded.code ∧
      s.WroteExactly t (containerOf s.recoded.code s.sourceBytes) ∧
      t.outLen.toNat = (containerOf s.recoded.code s.sourceBytes).length := by
  obtain ⟨-, rfl⟩ | ⟨-, hfit, rfl⟩ | ⟨-, -, rfl⟩ := exec_compress_next h
  · cases hok
  · exact ⟨rfl, rfl, containerWritten_wroteExactly s.recoded .., (containerWritten_results (s := s.recoded) hfit).1⟩
  · cases hok

/-- COMPRESS's FREQ counts the source exactly (43_encoder R232). -/
theorem recoded_freq_toNat (s : State) (x : Byte) : (s.recoded.freq.get x).toNat = s.occurrences x :=
  accumulated_fill_zero_toNat s x

/-- Its present symbols are the source's bytes. -/
theorem recoded_freq_ne_zero_iff (s : State) (x : Byte) : s.recoded.freq.get x ≠ 0 ↔ x ∈ s.sourceBytes := by
  rw [← List.count_pos_iff, count_sourceBytes, ← recoded_freq_toNat, Nat.pos_iff_ne_zero, ne_eq, ne_eq,
    ← BitVec.toNat_inj]
  rfl

theorem recoded_code_ne_nil_iff_present (s : State) (x : Byte) :
    s.recoded.code.get x ≠ [] ↔ s.recoded.freq.get x ≠ 0 :=
  builtCodes_get_ne_nil_iff s.recoded.freq x

/-- COMPRESS's CODE codes exactly the source's bytes, so NO_CODE cannot occur (43_encoder R233). -/
theorem recoded_code_ne_nil_iff (s : State) (x : Byte) : s.recoded.code.get x ≠ [] ↔ x ∈ s.sourceBytes :=
  (recoded_code_ne_nil_iff_present s x).trans (recoded_freq_ne_zero_iff s x)

theorem allCoded_recoded (s : State) : allCoded s.recoded.code s.sourceBytes = true :=
  (allCoded_iff ..).mpr fun x => (recoded_code_ne_nil_iff s x).mpr

/-- COMPRESS's CODE is the one BUILD_CODES makes of its FREQ (43_encoder R232). -/
theorem recoded_code_eq_of_buildCodes {s u v : State} (hfreq : u.freq = s.recoded.freq)
    (h : exec .buildCodes u = .next v) : s.recoded.code = v.code := by
  rw [code_of_buildCodes h, hfreq]
  rfl

/-- Settles O33: the state a success leaves is `containerWritten` after `recoded`, whose FREQ counts the source and
whose CODE codes its bytes. -/
theorem compressCountsBuildsAndEncodes : Obligations.CompressCountsBuildsAndEncodes := by
  intro s c table payload pad hlegal hc htable hpack hroom
  obtain rfl : s.recoded.code = c := hc.symm
  obtain ⟨rfl, rfl⟩ := Prod.ext_iff.mp hpack
  subst htable
  have hfit : (containerOf s.recoded.code s.sourceBytes).length ≤ s.recoded.latch.dstCap.toNat :=
    (containerOf_length ..).trans_le hroom
  obtain ⟨hout, hpad, htab⟩ := containerWritten_results hfit
  exact ⟨_, exec_compress_of_fits hlegal hfit, recoded_freq_toNat s, rfl, fun u v => recoded_code_eq_of_buildCodes,
    (allCoded_sourceBytes_iff ..).mp (allCoded_recoded s), rfl, containerWritten_wroteExactly s.recoded ..,
    hout.trans (containerOf_length ..), hpad, htab, containerWritten_frame rfl⟩

/-- Settles O34: the two tests of COMPRESS in their order, and none of its three ends is NO_CODE. -/
theorem compressErrorsInOrder : Obligations.CompressErrorsInOrder := by
  intro s
  refine ⟨exec_compress_of_not_legal, fun hlegal hover => ?_, fun t h => ?_⟩
  · exact ⟨_, exec_compress_of_overflows hlegal hover, recoded_freq_toNat s, rfl,
      fun u v => recoded_code_eq_of_buildCodes, fun a => spoilDst_read_of_outsideDest s.recoded, rfl⟩
  · obtain ⟨-, rfl⟩ | ⟨-, -, rfl⟩ | ⟨-, -, rfl⟩ := exec_compress_next h <;> simp

/-! ### The empty source -/

/-- The empty container: 8 zero bytes (30_encoding R124). -/
theorem containerOf_emptyCode_nil : containerOf emptyCode [] = List.replicate 8 0 := by
  rw [containerOf, serializeTable, codedEntries_emptyCode]
  rfl

theorem recoded_code_of_empty_source {s : State} (h : s.sourceBytes = []) : s.recoded.code = emptyCode := by
  refine Table.ext_get fun x => ?_
  rw [Table.get_emptyCode]
  by_contra hx
  simpa [h] using (recoded_code_ne_nil_iff s x).mp hx

/-- Settles O35: with no source byte nothing is counted and nothing coded, so the container is the empty one. -/
theorem compressOfNothingIsTheEmptyContainer : Obligations.CompressOfNothingIsTheEmptyContainer := by
  intro s hlegal hempty hroom
  have hsource : s.sourceBytes = [] :=
    List.eq_nil_of_length_eq_zero ((sourceBytes_length s).trans (congrArg BitVec.toNat hempty))
  have hcode := recoded_code_of_empty_source hsource
  have hcontainer : containerOf s.recoded.code s.sourceBytes = List.replicate 8 0 := by
    rw [hcode, hsource, containerOf_emptyCode_nil]
  have hfit : (containerOf s.recoded.code s.sourceBytes).length ≤ s.recoded.latch.dstCap.toNat :=
    hcontainer ▸ hroom
  obtain ⟨hout, hpad, htab⟩ := containerWritten_results hfit
  have hwrote := containerWritten_wroteExactly s.recoded s.sourceBytes .ok
  rw [hcontainer] at hwrote hout
  have hnobits : encodeBits s.recoded.code s.sourceBytes = [] := by rw [hsource, encodeBits_nil]
  rw [hnobits] at hpad
  rw [hcode, serializeTable, codedEntries_emptyCode] at htab
  refine ⟨_, exec_compress_of_fits hlegal hfit, rfl, hwrote, BitVec.eq_of_toNat_eq hout, BitVec.eq_of_toNat_eq hpad,
    BitVec.eq_of_toNat_eq htab, fun x => ?_, fun x => ?_⟩
  · by_contra hx
    simpa [hsource] using (recoded_freq_ne_zero_iff s x).mp hx
  · exact (congrArg (·.get x) hcode).trans (Table.get_emptyCode x)

/-! ### The length of the container -/

theorem serializeTable_length (c : Table Code) :
    (serializeTable c).length = ((codedEntries c).map (fun e => 2 + e.2.length)).sum := by
  simp only [serializeTable, List.length_flatMap, entryBytes_length]

/-- The coded entries of a table that codes exactly the present symbols (41_tree_and_codes R181). -/
theorem codedEntries_of_present {freq : Table Word} {c : Table Code} (h : ∀ x, c.get x ≠ [] ↔ freq.get x ≠ 0) :
    codedEntries c = (presentSymbols freq).map (fun x => (x, c.get x)) := by
  rw [codedEntries, Table.pairs_eq, List.filter_map, presentSymbols]
  congr 1
  refine List.filter_congr fun x _ => ?_
  rw [Bool.eq_iff_iff]
  simpa using h x

theorem encodeBits_length (c : Table Code) (b : List Byte) :
    (encodeBits c b).length = (b.map (fun x => (c.get x).length)).sum := by
  simp only [encodeBits, List.length_flatMap]

/-- The code bits of COMPRESS's source number Σ FREQ[x] × len(CODE[x]): every byte is counted once for each place it
stands at (41_tree_and_codes R184; 43_encoder R221). -/
theorem encodeBits_recoded_length (s : State) :
    (encodeBits s.recoded.code s.sourceBytes).length = codeCost s.recoded.freq s.recoded.code := by
  have hsymbols : s.sourceBytes.toFinset = (presentSymbols s.recoded.freq).toFinset := by
    ext x
    rw [List.mem_toFinset, List.mem_toFinset, mem_presentSymbols, recoded_freq_ne_zero_iff]
  rw [encodeBits_length, codeCost_eq_sum_present, Finset.sum_list_map_count, hsymbols,
    List.sum_toFinset _ (presentSymbols_nodup _)]
  simp only [count_sourceBytes, ← recoded_freq_toNat, counterOf, smul_eq_mul]

/-- Settles O36: the three parts of the container, by `serializeTable_length` over the present symbols and by Pack's
length over the code bits. -/
theorem compressContainerLength : Obligations.CompressContainerLength := by
  intro s t h hok
  obtain ⟨hfreq, hcode, -, hout⟩ := compress_ok h hok
  obtain ⟨hpack, -⟩ := packLengthPaddingAndBits (encodeBits s.recoded.code s.sourceBytes)
  have htable : (serializeTable s.recoded.code).length =
      ((presentSymbols s.recoded.freq).map (fun x => 2 + (s.recoded.code.get x).length)).sum := by
    rw [serializeTable_length, codedEntries_of_present (recoded_code_ne_nil_iff_present s), List.map_map]
    rfl
  rw [encodeBits_recoded_length] at hpack
  rw [hout, hfreq, hcode, containerOf_length, htable, hpack]
  rfl

end Sys2Proof.Machine
end

section
/-! The decoder on what ENCODE and COMPRESS write: the container's bytes parse to its parts, and the retained bits
decode to the symbols (43_encoder R235; 44_decoder R251 to R259). -/

namespace Sys2Proof.Machine

/-! ### The parser on a container -/

theorem toNat_append_byte {n : Nat} (w : BitVec n) (b : Byte) : (w ++ b).toNat = w.toNat * 2 ^ 8 + b.toNat := by
  rw [BitVec.toNat_append, ← Nat.shiftLeft_add_eq_or_of_lt b.isLt, Nat.shiftLeft_eq]

/-- BE32 as a number (20_memory R82). -/
theorem be32_toNat (b0 b1 b2 b3 : Byte) :
    (be32 b0 b1 b2 b3).toNat = b0.toNat * 2 ^ 24 + b1.toNat * 2 ^ 16 + b2.toNat * 2 ^ 8 + b3.toNat := by
  rw [be32, toNat_append_byte, toNat_append_byte, toNat_append_byte]
  omega

/-- BE32 inverts BE32bytes below 2^32 (00_scope R15). -/
theorem be32_be32Bytes (v : Nat) :
    be32 (BitVec.ofNat 8 (v / 0x1000000)) (BitVec.ofNat 8 (v / 0x10000)) (BitVec.ofNat 8 (v / 0x100))
      (BitVec.ofNat 8 v) = BitVec.ofNat 32 v := by
  refine BitVec.eq_of_toNat_eq ?_
  simp only [be32_toNat, BitVec.toNat_ofNat]
  omega

theorem headerFields_be32Bytes (pad tl : Nat) (rest : List Byte) :
    headerFields (be32Bytes pad ++ be32Bytes tl ++ rest) = some (BitVec.ofNat 32 pad, BitVec.ofNat 32 tl) :=
  congrArg some (Prod.ext (be32_be32Bytes pad) (be32_be32Bytes tl))

theorem drop_makeContainer (pad : Nat) (t p : List Byte) : (makeContainer pad t p).drop Config.headerLen = t ++ p := by
  rw [makeContainer, List.append_assoc _ t]
  rfl

theorem codedEntries_eq_nil_iff (c : Table Code) : codedEntries c = [] ↔ ∀ x, c.get x = [] := by
  rw [List.eq_nil_iff_forall_not_mem, Prod.forall]
  refine forall_congr' fun x => ?_
  simp only [mem_codedEntries, not_and_not_right, forall_eq']

/-- Every check of the parser is met by a container with legal parts, and the parts are read back (44_decoder R258). -/
theorem parseContainer_makeContainer {pad : Nat} {c : Table Code} {p : List Byte} (hc : CodeOk c)
    (htable : (serializeTable c).length < 2 ^ 32) (hmax : pad ≤ 7) (hpad : pad ≤ 8 * p.length)
    (hempty : (∀ x, c.get x = []) → p = []) :
    parseContainer (makeContainer pad (serializeTable c) p) = .ok ⟨pad, c, p⟩ := by
  have hheader : headerFields (makeContainer pad (serializeTable c) p) =
      some (BitVec.ofNat 32 pad, BitVec.ofNat 32 (serializeTable c).length) := by
    rw [makeContainer, List.append_assoc _ (serializeTable c)]
    exact headerFields_be32Bytes ..
  have hpadNat : (BitVec.ofNat 32 pad).toNat = pad := toNat_ofNat_of_lt (by omega)
  have htableNat : (BitVec.ofNat 32 (serializeTable c).length).toNat = (serializeTable c).length :=
    toNat_ofNat_of_lt htable
  have hlen : ¬ (makeContainer pad (serializeTable c) p).length < Config.headerLen + (serializeTable c).length := by
    rw [makeContainer_length]
    exact Nat.not_lt.mpr (Nat.le_add_right ..)
  have htake : ((makeContainer pad (serializeTable c) p).drop Config.headerLen).take (serializeTable c).length =
      serializeTable c := by rw [drop_makeContainer, List.take_left]
  have hdrop : (makeContainer pad (serializeTable c) p).drop (Config.headerLen + (serializeTable c).length) = p := by
    rw [← List.drop_drop, drop_makeContainer, List.drop_left]
  have hmax : ¬ Config.maxPad < pad := Nat.not_lt.mpr hmax
  have hpayload : ¬ ((codedEntries c).isEmpty && !p.isEmpty) = true := by
    rw [Bool.not_eq_true, Bool.and_eq_false_imp, List.isEmpty_iff, codedEntries_eq_nil_iff]
    exact fun h => by simp [hempty h]
  simp only [parseContainer, hheader, hpadNat, htableNat, htake, hdrop, parseTable_serializeTable hc]
  rw [if_neg hlen, if_neg hmax, if_neg hpayload, if_neg (Nat.not_lt.mpr hpad)]

/-! ### The bit decoder on a concatenation of codes -/

/-- In a prefix-free table an entry whose code begins another symbol's code is that symbol's own. -/
theorem entry_of_code_isPrefix {c : Table Code} (hc : PrefixFree c) {x : Byte} (hx : c.get x ≠ []) {e : Byte × Code}
    (he : e ∈ codedEntries c) (hpre : e.2 <+: c.get x) : e = (x, c.get x) := by
  obtain ⟨y, u⟩ := e
  obtain ⟨rfl, hu⟩ := (mem_codedEntries c y u).mp he
  obtain rfl : y = x := by
    by_contra hne
    exact hc y x hne hu hx hpre
  rfl

/-- The entry whose code is `x`'s is `x`'s own. -/
theorem find_code {c : Table Code} (hc : PrefixFree c) {x : Byte} (hx : c.get x ≠ []) :
    (codedEntries c).find? (fun e => e.2 == c.get x) = some (x, c.get x) := by
  have hmem : (x, c.get x) ∈ codedEntries c := (mem_codedEntries c x _).mpr ⟨rfl, hx⟩
  cases h : (codedEntries c).find? (fun e => e.2 == c.get x) with
  | none => simpa using List.find?_eq_none.mp h _ hmem
  | some e =>
    have heq : e.2 = c.get x := by simpa using List.find?_some h
    rw [entry_of_code_isPrefix hc hx (List.mem_of_find?_eq_some h) (heq ▸ List.prefix_rfl)]

/-- No symbol has a proper prefix of a code as its code. -/
theorem find_of_proper_prefix {c : Table Code} (hc : PrefixFree c) {x : Byte} {cur v : Code}
    (hx : cur ++ v = c.get x) (hv : v ≠ []) : (codedEntries c).find? (fun e => e.2 == cur) = none := by
  refine List.find?_eq_none.mpr fun e he heq => hv ?_
  rw [beq_iff_eq] at heq
  have hcode : c.get x ≠ [] := fun h => hv (List.append_eq_nil_iff.mp (hx.trans h)).2
  have hown := entry_of_code_isPrefix hc hcode he (heq ▸ hx ▸ List.prefix_append cur v)
  have hcur : cur = cur ++ v := by rw [hx, ← heq, hown]
  exact List.self_eq_append_right.mp hcur

/-- The decoder with the first part `cur` of a code read takes the rest `v` of it, and gives the code's symbol
(44_decoder R259). -/
theorem decodeBits_code_append {c : Table Code} (hc : PrefixFree c) {x : Byte} {cur v : Code} (hx : cur ++ v = c.get x)
    (hv : v ≠ []) (w : Code) :
    decodeBits (codedEntries c) cur (v ++ w) = (decodeBits (codedEntries c) [] w).map (x :: ·) := by
  induction v generalizing cur with
  | nil => exact absurd rfl hv
  | cons b v ih =>
    have hstep : cur ++ [b] ++ v = c.get x := by rw [List.append_assoc]; exact hx
    rw [List.cons_append, decodeBits]
    by_cases hlast : v = []
    · rw [hlast, List.append_nil] at hstep
      have hcode : c.get x ≠ [] := hstep ▸ List.append_ne_nil_of_right_ne_nil cur (List.cons_ne_nil b [])
      rw [hstep, find_code hc hcode, hlast]
      rfl
    · have hcode : c.get x ≠ [] := hstep ▸ List.append_ne_nil_of_right_ne_nil (cur ++ [b]) hlast
      have hany : (codedEntries c).any (fun e => isPrefix (cur ++ [b]) e.2) = true :=
        List.any_eq_true.mpr ⟨(x, c.get x), (mem_codedEntries c x _).mpr ⟨rfl, hcode⟩,
          (isPrefix_iff ..).mpr (hstep ▸ List.prefix_append ..)⟩
      rw [find_of_proper_prefix hc hstep hlast, hany]
      exact ih hstep hlast

/-- Decode of a concatenation of codes gives its symbols (44_decoder R259). -/
theorem decodeBits_encodeBits {c : Table Code} (hc : PrefixFree c) {b : List Byte} (hb : ∀ x ∈ b, c.get x ≠ []) :
    decodeBits (codedEntries c) [] (encodeBits c b) = some b := by
  induction b with
  | nil => rfl
  | cons x b ih =>
    obtain ⟨hx, hb⟩ := List.forall_mem_cons.mp hb
    rw [encodeBits, List.flatMap_cons, decodeBits_code_append hc (List.nil_append _) hx, ← encodeBits, ih hb]
    rfl

/-! ### The round trip -/

/-- The container of coded bytes parses to the code, the padding and the payload it was made of. -/
theorem parseContainer_containerOf {c : Table Code} {b : List Byte} (hc : CodeOk c) (hb : ∀ x ∈ b, c.get x ≠ [])
    (hlen : (containerOf c b).length < 2 ^ 32) :
    parseContainer (containerOf c b) = .ok ⟨(pack (encodeBits c b)).2, c, (pack (encodeBits c b)).1⟩ := by
  rw [containerOf_length] at hlen
  refine parseContainer_makeContainer hc (by omega) (Nat.le_of_lt_succ (pack_snd_lt _)) (retainInvertsPack _).1
    fun hnone => ?_
  obtain rfl : b = [] := List.eq_nil_iff_forall_not_mem.mpr fun x hx => hb x hx (hnone x)
  rfl

theorem headerRead_mem (s : State) (c : List Byte) : (s.headerRead c).mem = s.mem := by
  rw [headerRead_eq]

/-- DECOMPRESS of a container whose retained bits decode to `out`, with room for it (44_decoder R270). -/
theorem exec_decompress_of_decoded {s : State} {p : Parsed} {out : List Byte} (hlegal : s.latch.RegionsLegal)
    (hp : parseContainer s.sourceBytes = .ok p)
    (hout : decodeBits (codedEntries p.table) [] (retain p.payload p.pad) = some out)
    (hfit : out.length ≤ s.latch.dstCap.toNat) :
    exec .decompress s =
      .next ((((s.headerRead s.sourceBytes).withCode p.table).deliver out).complete .ok) := by
  show execDecompress s = _
  simp only [execDecompress, (regionsOk_iff_legal s.latch).mpr hlegal, hp, hout, hfit, if_true, completeOk_eq]

theorem decompressed_wroteExactly (s : State) (c : List Byte) (tab : Table Code) (out : List Byte) (e : ErrCode) :
    s.WroteExactly ((((s.headerRead c).withCode tab).deliver out).complete e) out := by
  refine wroteExactly_of_mem ?_
  simp only [State.complete_mem, State.deliver_mem, State.withCode_mem, State.withCode_latch, headerRead_mem,
    headerRead_latch]

/-- The source region of `u` holds what `t` has at an address, byte by byte. -/
theorem sourceBytes_eq_of_holds {u t : State} {a : Nat} {out : List Byte} (hlen : u.latch.srcLen.toNat = out.length)
    (ht : ∀ j, (h : j < out.length) → Memory.read t.mem (a + j) = out[j])
    (hu : ∀ j, j < out.length → u.sourceByte j = Memory.read t.mem (a + j)) : u.sourceBytes = out := by
  refine List.ext_getElem ((sourceBytes_length u).trans hlen) fun j _ hj => ?_
  rw [← ht j hj, ← hu j hj]
  simp [sourceBytes_eq_map]

/-- Settles O37: the container COMPRESS wrote parses to its CODE, padding and payload (`parseContainer_containerOf`),
the retained bits are the code bits it packed, and these decode to the source (`decodeBits_encodeBits`). -/
theorem decompressInvertsCompress : Obligations.DecompressInvertsCompress := by
  intro s t u hrun hok hlegal hlen hholds hroom
  obtain ⟨-, -, hwrote, hout⟩ := compress_ok hrun hok
  have hcoded : ∀ x ∈ s.sourceBytes, s.recoded.code.get x ≠ [] := fun x => (recoded_code_ne_nil_iff s x).mpr
  have hcode : CodeOk s.recoded.code := codeOk_builtCodes s.recoded.freq
  have hsource : u.sourceBytes = containerOf s.recoded.code s.sourceBytes :=
    sourceBytes_eq_of_holds ((congrArg BitVec.toNat hlen).trans hout)
      hwrote.1 fun j hj => hholds j (hout.symm ▸ hj)
  have hparse := parseContainer_containerOf hcode hcoded (hout.symm.trans_lt t.outLen.isLt)
  have hdecode : decodeBits (codedEntries s.recoded.code) [] (retain (pack (encodeBits s.recoded.code s.sourceBytes)).1
      (pack (encodeBits s.recoded.code s.sourceBytes)).2) = some s.sourceBytes := by
    rw [(retainInvertsPack _).2, decodeBits_encodeBits hcode.1 hcoded]
  have hsrcLen := sourceBytes_length s
  have hbytes : BitVec.ofNat 32 s.sourceBytes.length = s.latch.srcLen := by
    rw [hsrcLen, BitVec.ofNat_toNat, BitVec.setWidth_eq]
  rw [← hsource] at hparse
  exact ⟨_, exec_decompress_of_decoded hlegal hparse hdecode (hsrcLen.trans_le hroom), rfl, hbytes,
    decompressed_wroteExactly ..⟩

end Sys2Proof.Machine
end

section
/-! The bit decoder on any bit sequence (44_decoder R259, R260). -/

namespace Sys2Proof.Machine

/-- What the decoder gives are coded symbols, and their codes spell the partial code `cur` and the bits after it,
whether the table is prefix-free or not. -/
theorem encodeBits_of_decodeBits {c : Table Code} {cur v : Code} {out : List Byte}
    (h : decodeBits (codedEntries c) cur v = some out) :
    (∀ x ∈ out, c.get x ≠ []) ∧ encodeBits c out = cur ++ v := by
  induction v generalizing cur out with
  | nil =>
    simp only [decodeBits, Option.ite_none_right_eq_some, Option.some.injEq, List.isEmpty_iff] at h
    obtain ⟨rfl, rfl⟩ := h
    exact ⟨List.forall_mem_nil _, rfl⟩
  | cons b v ih =>
    rw [decodeBits] at h
    split at h
    · next e hfind =>
      have hcode : e.2 = cur ++ [b] := by simpa using List.find?_some hfind
      obtain ⟨hget, hne⟩ := (mem_codedEntries c e.1 e.2).mp (List.mem_of_find?_eq_some hfind)
      obtain ⟨rest, hrest, rfl⟩ := Option.map_eq_some_iff.mp h
      obtain ⟨hcoded, hbits⟩ := ih hrest
      refine ⟨List.forall_mem_cons.mpr ⟨hget ▸ hne, hcoded⟩, ?_⟩
      rw [encodeBits, List.flatMap_cons, ← encodeBits, hbits, hget, hcode, List.nil_append, List.append_assoc,
        List.singleton_append]
    · rw [Option.ite_none_right_eq_some] at h
      obtain ⟨hcoded, hbits⟩ := ih h.2
      exact ⟨hcoded, by rw [hbits, List.append_assoc, List.singleton_append]⟩

/-- Settles O30: by `encodeBits_of_decodeBits` what is decoded spells the bits, and by `decodeBits_encodeBits` a
concatenation of codes is decoded. -/
theorem decodeExactlyConcatenationsOfCodes : Obligations.DecodeExactlyConcatenationsOfCodes := by
  intro c v out hc
  constructor
  · intro h
    obtain ⟨hcoded, hbits⟩ := encodeBits_of_decodeBits h
    exact ⟨hcoded, hbits.symm⟩
  · rintro ⟨hcoded, rfl⟩
    exact decodeBits_encodeBits hc hcoded

end Sys2Proof.Machine
end

section
/-! The parser, check by check, and what it reads of a source region (44_decoder R251 to R258). -/

namespace Sys2Proof.Machine

/-! ### The header -/

theorem headerFields_of_short {c : List Byte} (h : c.length < Config.headerLen) : headerFields c = none := by
  unfold headerFields
  rw [Config.headerLen] at h
  split
  · simp only [List.length_cons] at h
    omega
  · rfl

/-- The header fields are the source's first eight bytes, four big-endian bytes each (44_decoder R252). -/
theorem headerFields_sourceBytes {s : State} (h : Config.headerLen ≤ s.sourceBytes.length) :
    headerFields s.sourceBytes =
      some (be32 (s.sourceByte 0) (s.sourceByte 1) (s.sourceByte 2) (s.sourceByte 3),
        be32 (s.sourceByte 4) (s.sourceByte 5) (s.sourceByte 6) (s.sourceByte 7)) := by
  rw [sourceBytes_length] at h
  obtain ⟨n, hn⟩ := Nat.exists_eq_add_of_le' h
  rw [sourceBytes_eq_map, hn, List.range_eq_range']
  rfl

theorem headerFields_makeContainer (pad : Nat) (t p : List Byte) :
    headerFields (makeContainer pad t p) = some (BitVec.ofNat 32 pad, BitVec.ofNat 32 t.length) := by
  rw [makeContainer, List.append_assoc _ t]
  exact headerFields_be32Bytes ..

theorem headerRead_of_short {c : List Byte} (h : c.length < Config.headerLen) (s : State) :
    s.headerRead c = s.withCode emptyCode := by
  simp only [State.headerRead, headerFields_of_short h]

theorem headerRead_of_fields {c : List Byte} {pad tl : Word} (h : headerFields c = some (pad, tl)) (s : State) :
    s.headerRead c = (s.withCode emptyCode).withHeader pad tl := by
  simp only [State.headerRead, h]

theorem headerRead_code (s : State) (c : List Byte) : (s.headerRead c).code = emptyCode := by
  rw [headerRead_eq]

theorem headerRead_outLen (s : State) (c : List Byte) : (s.headerRead c).outLen = s.outLen := by
  rw [headerRead_eq]

/-! ### The checks, in their order -/

theorem parseContainer_of_short {c : List Byte} (h : c.length < Config.headerLen) :
    parseContainer c = .error .malformedHeader := by
  simp only [parseContainer, headerFields_of_short h]

section
variable {c : List Byte} {pad tl : Word} (hheader : headerFields c = some (pad, tl))
include hheader

theorem parseContainer_of_truncated (h : c.length < Config.headerLen + tl.toNat) :
    parseContainer c = .error .malformedHeader := by
  simp only [parseContainer, hheader]
  exact if_pos h

variable (hlen : Config.headerLen + tl.toNat ≤ c.length)
include hlen

theorem parseContainer_of_long_pad (h : Config.maxPad < pad.toNat) : parseContainer c = .error .invalidPadding := by
  simp only [parseContainer, hheader]
  rw [if_neg (Nat.not_lt.mpr hlen)]
  exact if_pos h

variable (hpad : pad.toNat ≤ Config.maxPad)
include hpad

theorem parseContainer_of_bad_table (h : parseTable ((c.drop Config.headerLen).take tl.toNat) = none) :
    parseContainer c = .error .invalidCodeTable := by
  simp only [parseContainer, hheader, h]
  rw [if_neg (Nat.not_lt.mpr hlen)]
  exact if_neg (Nat.not_lt.mpr hpad)

variable {tab : Table Code} (htable : parseTable ((c.drop Config.headerLen).take tl.toNat) = some tab)
include htable

theorem parseContainer_of_payload_without_code (hnone : ∀ x, tab.get x = [])
    (h : c.drop (Config.headerLen + tl.toNat) ≠ []) :
    parseContainer c = .error .invalidCodeTable := by
  have hcheck : ((codedEntries tab).isEmpty && !(c.drop (Config.headerLen + tl.toNat)).isEmpty) = true := by
    rw [(codedEntries_eq_nil_iff tab).mpr hnone, List.isEmpty_eq_false_iff.mpr h]
    rfl
  simp only [parseContainer, hheader, htable]
  rw [if_neg (Nat.not_lt.mpr hlen), if_neg (Nat.not_lt.mpr hpad), if_pos hcheck]

variable (hcoded : (∃ x, tab.get x ≠ []) ∨ c.drop (Config.headerLen + tl.toNat) = [])
include hcoded

/-- Past the table only the padding against the payload is left to check (44_decoder R258). -/
theorem parseContainer_of_table :
    parseContainer c = if 8 * (c.drop (Config.headerLen + tl.toNat)).length < pad.toNat then .error .invalidPadding
      else .ok ⟨pad.toNat, tab, c.drop (Config.headerLen + tl.toNat)⟩ := by
  have hcheck : ¬ ((codedEntries tab).isEmpty && !(c.drop (Config.headerLen + tl.toNat)).isEmpty) = true := by
    rw [Bool.not_eq_true, Bool.and_eq_false_imp, List.isEmpty_iff, codedEntries_eq_nil_iff]
    exact fun hnone => by simp [hcoded.resolve_left fun ⟨x, hx⟩ => hx (hnone x)]
  simp only [parseContainer, hheader, htable]
  rw [if_neg (Nat.not_lt.mpr hlen), if_neg (Nat.not_lt.mpr hpad), if_neg hcheck]

end

/-- The table of a container that parses is the one its table bytes spell. -/
theorem parseTable_of_parseContainer {c : List Byte} {p : Parsed} (h : parseContainer c = .ok p) :
    ∃ pad tl, headerFields c = some (pad, tl) ∧
      parseTable ((c.drop Config.headerLen).take tl.toNat) = some p.table := by
  unfold parseContainer at h
  repeat' split at h
  all_goals cases h
  exact ⟨_, _, ‹_›, ‹_›⟩

/-! ### A source region that holds a container -/

section
variable {s : State} {pad : Nat} {c : Table Code} {p : List Byte} (h : s.HoldsContainer pad c p)
include h

theorem State.HoldsContainer.sourceBytes_eq : s.sourceBytes = makeContainer pad (serializeTable c) p := h.2.1

theorem State.HoldsContainer.codeOk : CodeOk c := h.1

theorem State.HoldsContainer.table_lt : (serializeTable c).length < 2 ^ 32 := by
  have hlen := congrArg List.length h.sourceBytes_eq
  rw [sourceBytes_length, makeContainer_length] at hlen
  have hlt := s.latch.srcLen.isLt
  omega

theorem State.HoldsContainer.parseContainer_eq : parseContainer s.sourceBytes = .ok ⟨pad, c, p⟩ := by
  have htable := h.table_lt
  obtain ⟨hok, hsource, hmax, hpad, hempty⟩ := h
  exact hsource ▸ parseContainer_makeContainer hok htable hmax hpad hempty

theorem State.HoldsContainer.headerRead_sourceBytes :
    s.headerRead s.sourceBytes =
      (s.withCode emptyCode).withHeader (BitVec.ofNat 32 pad) (BitVec.ofNat 32 (serializeTable c).length) :=
  headerRead_of_fields (h.sourceBytes_eq ▸ headerFields_makeContainer ..) s

theorem State.HoldsContainer.pad_toNat : (BitVec.ofNat 32 pad).toNat = pad := by
  obtain ⟨-, -, hmax, -⟩ := h
  exact toNat_ofNat_of_lt (by omega)

end

end Sys2Proof.Machine
end

section
/-! How PARSE_HEADER and DECOMPRESS end: one lemma over both commands, from which their errors, the header fields and
what CODE holds follow (44_decoder R251 to R261, R271). -/

namespace Sys2Proof.Machine

/-! ### The work of the two commands -/

/-- `u` is `s` after the work of the parser's command `i`, once the header is read: nothing else differs, OUT_LEN only
after a success, and memory and the count of draws only by DECOMPRESS (44_decoder R252, R262; 60_exceptions R310). -/
structure ParserWork (i : Instr) (e : ErrCode) (s u : State) : Prop where
  frame : u = { s with
    outLen := u.outLen
    padCount := u.padCount
    tableLen := u.tableLen
    code := u.code
    mem := u.mem
    draws := u.draws }
  outLen : e ≠ .ok → u.outLen = s.outLen
  noDest : i = .parseHeader → u.mem = s.mem ∧ u.draws = s.draws
  padCount : u.padCount = (s.headerRead s.sourceBytes).padCount
  tableLen : u.tableLen = (s.headerRead s.sourceBytes).tableLen

theorem parserWork_headerRead (i : Instr) (e : ErrCode) (s : State) :
    ParserWork i e s (s.headerRead s.sourceBytes) := by
  refine ⟨?_, fun _ => headerRead_outLen .., fun _ => ⟨headerRead_mem .., ?_⟩, rfl, rfl⟩ <;> rw [headerRead_eq]

section
variable {i : Instr} {e : ErrCode} {s u : State}

theorem ParserWork.withCode (h : ParserWork i e s u) (t : Table Code) : ParserWork i e s (u.withCode t) :=
  ⟨congrArg (·.withCode t) h.frame, h.outLen, h.noDest, h.padCount, h.tableLen⟩

theorem ParserWork.spoilDst (h : ParserWork .decompress e s u) : ParserWork .decompress e s u.spoilDst := by
  refine ⟨?_, h.outLen, fun hi => absurd hi (by decide), h.padCount, h.tableLen⟩
  rw [h.frame]
  rfl

theorem ParserWork.deliver (h : ParserWork .decompress .ok s u) (out : List Byte) :
    ParserWork .decompress .ok s (u.deliver out) := by
  refine ⟨?_, fun he => absurd rfl he, fun hi => absurd hi (by decide), h.padCount, h.tableLen⟩
  rw [h.frame]
  rfl

end

/-- Past the region check the parser's command `i` does its work from `s` to `u` and ends with code `e`: the parser's
own error, or one a parsed container allows (44_decoder R257, R271). -/
inductive ParserEnds (i : Instr) (s : State) (e : ErrCode) (u : State) : Prop
  | failed (work : ParserWork i e s u) (error : parseContainer s.sourceBytes = .error e) (code : u.code = emptyCode)
  | parsed (work : ParserWork i e s u) {p : Parsed} (ok : parseContainer s.sourceBytes = .ok p)
      (code : u.code = p.table) (errCode : e ∈ [.ok, .unresolvableBits, .dstOverflow])
      (onlyOk : i = .parseHeader → e = .ok)

theorem ParserEnds.work {i : Instr} {s u : State} {e : ErrCode} (h : ParserEnds i s e u) : ParserWork i e s u := by
  cases h <;> assumption

theorem exec_parseHeader_of_not_inRange {s : State} (h : ¬ s.latch.SourceInRange) :
    exec .parseHeader s = .next (s.complete .region) :=
  if_neg fun hok => h ((sourceOk_iff s.latch).mp hok)

theorem exec_decompress_of_not_legal {s : State} (h : ¬ s.latch.RegionsLegal) :
    exec .decompress s = .next (s.complete .region) :=
  if_neg fun hok => h ((regionsOk_iff_legal s.latch).mp hok)

theorem parserEnds_parseHeader {s : State} (h : s.latch.SourceInRange) :
    ∃ e u, exec .parseHeader s = .next (u.complete e) ∧ ParserEnds .parseHeader s e u := by
  have hok := (sourceOk_iff s.latch).mpr h
  rcases execParseHeader_cases s with ⟨hno, -⟩ | ⟨-, e, he, hx⟩ | ⟨-, p, hp, hx⟩
  · exact absurd hok (Bool.eq_false_iff.mp hno)
  · exact ⟨_, _, hx, .failed (parserWork_headerRead ..) he (headerRead_code ..)⟩
  · exact ⟨_, _, hx, .parsed ((parserWork_headerRead ..).withCode _) hp rfl (by decide) fun _ => rfl⟩

theorem parserEnds_decompress {s : State} (h : s.latch.RegionsLegal) :
    ∃ e u, exec .decompress s = .next (u.complete e) ∧ ParserEnds .decompress s e u := by
  have hok := (regionsOk_iff_legal s.latch).mpr h
  have loaded (e : ErrCode) (p : Parsed) :
      ParserWork .decompress e s ((s.headerRead s.sourceBytes).withCode p.table) :=
    (parserWork_headerRead ..).withCode _
  rcases execDecompress_cases s with ⟨hno, -⟩ | ⟨-, e, he, hx⟩ | ⟨-, p, hp, ⟨-, hx⟩ | ⟨out, -, ⟨-, hx⟩ | ⟨-, hx⟩⟩⟩
  · exact absurd hok (Bool.eq_false_iff.mp hno)
  · exact ⟨_, _, hx, .failed (parserWork_headerRead ..).spoilDst he (headerRead_code ..)⟩
  · exact ⟨_, _, hx, .parsed (loaded _ p).spoilDst hp rfl (by decide) (absurd · (by decide))⟩
  · exact ⟨_, _, hx, .parsed ((loaded _ p).deliver out) hp rfl (by decide) (absurd · (by decide))⟩
  · exact ⟨_, _, hx, .parsed (loaded _ p).spoilDst hp rfl (by decide) (absurd · (by decide))⟩

/-- The state either command answers with past its region check, taken apart. -/
theorem exists_parserEnds {s t : State}
    (h : (exec .parseHeader s = .next t ∧ s.latch.SourceInRange) ∨
      (exec .decompress s = .next t ∧ s.latch.RegionsLegal)) :
    ∃ i e u, t = u.complete e ∧ ParserEnds i s e u := by
  rcases h with ⟨hx, hr⟩ | ⟨hx, hr⟩
  · obtain ⟨e, u, hx', hends⟩ := parserEnds_parseHeader hr
    exact ⟨_, e, u, Host.Outcome.next.inj (hx.symm.trans hx'), hends⟩
  · obtain ⟨e, u, hx', hends⟩ := parserEnds_decompress hr
    exact ⟨_, e, u, Host.Outcome.next.inj (hx.symm.trans hx'), hends⟩

/-- The state either command answers with, whatever its regions. -/
theorem region_or_parserEnds {i : Instr} {s t : State} (hi : i = .parseHeader ∨ i = .decompress)
    (h : exec i s = .next t) : t = s.complete .region ∨ ∃ e u, t = u.complete e ∧ ParserEnds i s e u := by
  have next_inj {v : State} (hv : exec i s = .next v) : t = v := Host.Outcome.next.inj (h.symm.trans hv)
  rcases hi with rfl | rfl
  · by_cases hr : s.latch.SourceInRange
    · obtain ⟨e, u, hx, hends⟩ := parserEnds_parseHeader hr
      exact .inr ⟨e, u, next_inj hx, hends⟩
    · exact .inl (next_inj (exec_parseHeader_of_not_inRange hr))
  · by_cases hr : s.latch.RegionsLegal
    · obtain ⟨e, u, hx, hends⟩ := parserEnds_decompress hr
      exact .inr ⟨e, u, next_inj hx, hends⟩
    · exact .inl (next_inj (exec_decompress_of_not_legal hr))

/-! ### The parser's errors and the header fields -/

section
variable {i : Instr} {s u : State} {e : ErrCode} (h : ParserEnds i s e u)
include h

theorem ParserEnds.eq_of_error {e' : ErrCode} (he : parseContainer s.sourceBytes = .error e') : e = e' := by
  cases h with
  | failed _ herr _ => exact Except.error.inj (herr.symm.trans he)
  | parsed _ hok _ _ _ => exact nomatch hok.symm.trans he

theorem ParserEnds.of_ok {p : Parsed} (hp : parseContainer s.sourceBytes = .ok p) :
    e ∈ [.ok, .unresolvableBits, .dstOverflow] ∧ (i = .parseHeader → e = .ok) := by
  cases h with
  | failed _ herr _ => exact nomatch hp.symm.trans herr
  | parsed _ _ _ hmem honly => exact ⟨hmem, honly⟩

end

/-- Settles O40: PAD_COUNT and TABLE_LEN are what the header read left (`ParserWork`), which `headerFields_sourceBytes`
gives byte by byte. -/
theorem headerFieldsStandWhateverFails : Obligations.HeaderFieldsStandWhateverFails := by
  intro s t hrun
  obtain ⟨i, e, u, rfl, hends⟩ := exists_parserEnds hrun
  have hpad : (u.complete e).padCount = _ := hends.work.padCount
  have htl : (u.complete e).tableLen = _ := hends.work.tableLen
  rw [hpad, htl, ← sourceBytes_length s]
  refine ⟨fun hlen => ?_, fun hlen => ?_⟩
  · rw [headerRead_of_fields (headerFields_sourceBytes hlen)]
    exact ⟨be32_toNat .., be32_toNat ..⟩
  · rw [headerRead_of_short hlen]
    exact ⟨rfl, rfl⟩

/-- Settles O39: the checks of `parseContainer` in their order, whose error or success the command ends with
(`ParserEnds`). -/
theorem parserErrorsInOrder : Obligations.ParserErrorsInOrder := by
  rintro s t _ _ _ rfl rfl rfl hrun
  obtain ⟨i, e, u, rfl, hends⟩ := exists_parserEnds hrun
  have hsource : s.latch.SourceInRange := hrun.elim (·.2) fun h => h.2.1
  rw [← sourceBytes_length s]
  refine ⟨fun hlen => hends.eq_of_error (parseContainer_of_short hlen),
    fun hlen hcut => hends.eq_of_error (parseContainer_of_truncated (headerFields_sourceBytes hlen) hcut),
    fun hlen hpad => ?_, fun hlen hpad => ?_⟩
  · have hheader := headerFields_sourceBytes (Nat.le_of_add_right_le hlen)
    exact hends.eq_of_error (parseContainer_of_long_pad hheader hlen hpad)
  · have hheader := headerFields_sourceBytes (Nat.le_of_add_right_le hlen)
    refine ⟨fun hbad => ?_, fun tab hok htab => ?_⟩
    · refine hends.eq_of_error (parseContainer_of_bad_table hheader hlen hpad ?_)
      refine Option.eq_none_iff_forall_ne_some.mpr fun tab htab => hbad ⟨tab, ?_⟩
      exact (parseTableAcceptsExactlySerializedTables _ tab).mp htab
    · have htable := (parseTableAcceptsExactlySerializedTables _ tab).mpr ⟨hok, htab⟩
      have hparse := parseContainer_of_table hheader hlen hpad htable
      refine ⟨fun hnone hpayload => ?_, fun hcoded hover => ?_, fun hcoded hroom => ?_⟩
      · exact hends.eq_of_error (parseContainer_of_payload_without_code hheader hlen hpad htable hnone hpayload)
      · exact hends.eq_of_error ((hparse hcoded).trans (if_pos hover))
      · have hparse := (hparse hcoded).trans (if_neg (Nat.not_lt.mpr hroom))
        refine ⟨(hends.of_ok hparse).1, fun hx => ?_⟩
        obtain ⟨e', u', hx', hends'⟩ := parserEnds_parseHeader hsource
        rw [Host.Outcome.next.inj (hx.symm.trans hx')]
        exact (hends'.of_ok hparse).2 rfl

/-! ### What CODE holds -/

/-- The table a parsed container leaves in CODE is the one serialized in the source, TABLE_LEN bytes after the header
(44_decoder R257). -/
theorem ParserWork.table_of_ok {i : Instr} {s u : State} {e : ErrCode} {p : Parsed} (h : ParserWork i e s u)
    (hp : parseContainer s.sourceBytes = .ok p) :
    CodeOk p.table ∧ serializeTable p.table = (s.sourceBytes.drop 8).take u.tableLen.toNat := by
  obtain ⟨pad, tl, hheader, htable⟩ := parseTable_of_parseContainer hp
  have htl : u.tableLen = tl := by rw [h.tableLen, headerRead_of_fields hheader, State.withHeader_tableLen]
  rw [htl]
  exact (parseTableAcceptsExactlySerializedTables _ _).mp htable

/-- An error leaves everything beside CODE, the header fields, memory and the count of draws (60_exceptions R310). -/
theorem ParserWork.frame_of_error {i : Instr} {s u : State} {e : ErrCode} (h : ParserWork i e s u) (he : e ≠ .ok) :
    u = { s with
      code := u.code
      padCount := u.padCount
      tableLen := u.tableLen
      mem := u.mem
      draws := u.draws } := by
  have hframe := h.frame
  rwa [h.outLen he] at hframe

/-- Settles O41: a region check that failed changes nothing; past it `ParserEnds` says what CODE holds after the
parser's errors and after a parse, and `ParserWork` what stays. -/
theorem codeAfterParserErrors : Obligations.CodeAfterParserErrors := by
  intro s t i hi hx
  rcases region_or_parserEnds hi hx with rfl | ⟨e, u, rfl, hends⟩
  · exact ⟨by simp, fun _ => rfl, by simp, by simp, fun _ => rfl, fun _ => ⟨rfl, rfl⟩⟩
  · have hframe (he : e ≠ .ok) := congrArg (·.complete e) (hends.work.frame_of_error he)
    cases hends with
    | failed hw herr hcode =>
      have hempty : (∀ x, u.code.get x = []) ∧ (u.complete e).nsym = 0 := by
        simp [State.nsym, hcode, codedEntries_emptyCode]
      have hkinds := parseContainer_error herr
      refine ⟨fun _ => hempty, ?_, ?_, ?_, hframe, hw.noDest⟩ <;> rcases hkinds with rfl | rfl | rfl <;> simp
    | parsed hw hp hcode hmem honly =>
      have hkinds : e = .ok ∨ e = .unresolvableBits ∨ e = .dstOverflow := by simpa using hmem
      refine ⟨?_, ?_, fun he => hi.resolve_left fun hi => ?_, fun _ => hcode ▸ hw.table_of_ok hp, hframe, hw.noDest⟩
      · rcases hkinds with rfl | rfl | rfl <;> simp
      · rcases hkinds with rfl | rfl | rfl <;> simp
      · obtain rfl := honly hi
        simp at he

end Sys2Proof.Machine
end

section
/-! PARSE_HEADER and DECOMPRESS of a valid container (44_decoder R257 to R262, R270, R271). -/

namespace Sys2Proof.Machine

/-! ### PARSE_HEADER -/

theorem exec_parseHeader_of_parsed {s : State} {p : Parsed} (h : s.latch.SourceInRange)
    (hp : parseContainer s.sourceBytes = .ok p) :
    exec .parseHeader s = .next (((s.headerRead s.sourceBytes).withCode p.table).complete .ok) := by
  show execParseHeader s = _
  simp only [execParseHeader, (sourceOk_iff s.latch).mpr h, hp, if_true, completeOk_eq]

/-- Settles O38: a held container parses to its parts, and its header is read back. -/
theorem parseHeaderLoadsTheTable : Obligations.ParseHeaderLoadsTheTable := by
  intro s pad c p hsource hholds
  have hrun := exec_parseHeader_of_parsed hsource hholds.parseContainer_eq
  rw [hholds.headerRead_sourceBytes] at hrun
  exact ⟨_, hrun, rfl, hholds.pad_toNat, toNat_ofNat_of_lt hholds.table_lt, rfl⟩

/-! ### DECOMPRESS -/

theorem exec_decompress_of_undecodable {s : State} {p : Parsed} (hlegal : s.latch.RegionsLegal)
    (hp : parseContainer s.sourceBytes = .ok p)
    (hnone : decodeBits (codedEntries p.table) [] (retain p.payload p.pad) = none) :
    exec .decompress s =
      .next (((s.headerRead s.sourceBytes).withCode p.table).spoilDst.complete .unresolvableBits) := by
  show execDecompress s = _
  simp only [execDecompress, (regionsOk_iff_legal s.latch).mpr hlegal, hp, hnone, if_true, failDst_eq]

theorem exec_decompress_of_overflow {s : State} {p : Parsed} {out : List Byte} (hlegal : s.latch.RegionsLegal)
    (hp : parseContainer s.sourceBytes = .ok p)
    (hout : decodeBits (codedEntries p.table) [] (retain p.payload p.pad) = some out)
    (hover : s.latch.dstCap.toNat < out.length) :
    exec .decompress s =
      .next (((s.headerRead s.sourceBytes).withCode p.table).spoilDst.complete .dstOverflow) := by
  show execDecompress s = _
  simp only [execDecompress, (regionsOk_iff_legal s.latch).mpr hlegal, hp, hout, if_true, failDst_eq]
  exact if_neg (Nat.not_le.mpr hover)

/-- A failure past the parse leaves OUT_LEN and every byte outside the destination (20_memory R86; 44_decoder R257). -/
theorem parsed_spoilDst_frame (s : State) (b : List Byte) (c : Table Code) :
    (((s.headerRead b).withCode c).spoilDst).outLen = s.outLen ∧
      ∀ a, s.latch.OutsideDest a →
        Memory.read (((s.headerRead b).withCode c).spoilDst).mem a = Memory.read s.mem a := by
  refine ⟨headerRead_outLen s b, fun a ha => ?_⟩
  rw [spoilDst_read_of_outsideDest _ (by rwa [State.withCode_latch, headerRead_latch]), State.withCode_mem,
    headerRead_mem]

/-- Settles O42: the retained bits decode to `out` (`decodeExactlyConcatenationsOfCodes`), which is delivered. -/
theorem decompressWritesTheSymbols : Obligations.DecompressWritesTheSymbols := by
  intro s pad c p out hlegal hholds hcoded hbits hroom
  have hout := (decodeExactlyConcatenationsOfCodes c (retain p pad) out hholds.codeOk.1).mpr ⟨hcoded, hbits⟩
  have hrun := exec_decompress_of_decoded hlegal hholds.parseContainer_eq hout hroom
  have hwrote := decompressed_wroteExactly s s.sourceBytes c out .ok
  rw [hholds.headerRead_sourceBytes] at hrun hwrote
  exact ⟨_, hrun, hwrote, toNat_ofNat_of_le hroom, rfl, hholds.pad_toNat, toNat_ofNat_of_lt hholds.table_lt, rfl⟩

/-- Settles O43: the decoder's answer on the retained bits (`decodeExactlyConcatenationsOfCodes`) picks the error, and
both errors leave what `parsed_spoilDst_frame` says. -/
theorem decompressErrorsAfterTheParse : Obligations.DecompressErrorsAfterTheParse := by
  refine fun s => ⟨exec_decompress_of_not_legal, fun pad c p hlegal hholds => ?_⟩
  have hdecode (out : List Byte) := decodeExactlyConcatenationsOfCodes c (retain p pad) out hholds.codeOk.1
  have hparse := hholds.parseContainer_eq
  obtain ⟨hlen, houtside⟩ := parsed_spoilDst_frame s s.sourceBytes c
  refine ⟨fun hno => ?_, fun out hcoded hbits hover => ?_⟩
  · have hnone : decodeBits (codedEntries c) [] (retain p pad) = none :=
      Option.eq_none_iff_forall_ne_some.mpr fun out hout => hno ⟨out, (hdecode out).mp hout⟩
    exact ⟨_, exec_decompress_of_undecodable hlegal hparse hnone, rfl, rfl, hlen, houtside⟩
  · have hout := (hdecode out).mpr ⟨hcoded, hbits⟩
    exact ⟨_, exec_decompress_of_overflow hlegal hparse hout hover, rfl, rfl, hlen, houtside⟩

end Sys2Proof.Machine
end

section
/-! The step after an accepted word: dispatch on the latch runs the command the decoder reads from the word, and what
NOP and the illegal command leave (45_control R292 to R294; 30_encoding R108, R109). -/

namespace Sys2Proof.Machine

/-! ### The fields of a command word (30_encoding R106) -/

theorem opcodeField_eq_setWidth (w : Word) : opcodeField w = w.setWidth 4 := BitVec.eq_of_toNat_eq rfl

theorem opcodeField_toNat (w : Word) : (opcodeField w).toNat = w.toNat % 16 := by
  rw [opcodeField_eq_setWidth, BitVec.toNat_setWidth]

theorem reservedField_toNat (w : Word) : (reservedField w).toNat = w.toNat / 16 := by
  have hw := w.isLt
  rw [reservedField, BitVec.extractLsb'_toNat, Nat.shiftRight_eq_div_pow]
  exact Nat.mod_eq_of_lt (by omega)

theorem reservedField_eq_zero_iff (w : Word) : reservedField w = 0 ↔ w.toNat / 16 = 0 := by
  rw [← reservedField_toNat, BitVec.toNat_eq]
  rfl

theorem decodeWord_of_illegal {w : Word} (h : 8 ≤ w.toNat % 16 ∨ w.toNat / 16 ≠ 0) :
    decodeWord w = .illegal (opcodeField w) (reservedField w) := by
  rw [← opcodeField_toNat, ne_eq, ← reservedField_eq_zero_iff] at h
  by_cases hr : reservedField w = 0
  · rw [← reservedField_append_opcodeField w, hr, opcodeField_append, reservedField_append]
    exact decodeWord_of_opcode_ge _ (h.resolve_right (absurd hr))
  · exact if_neg hr

/-! ### Dispatch after acceptance -/

/-- The word rebuilt from the latch is the accepted one, or both are illegal and run alike (45_control R294; log 12). -/
theorem exec_latchedInstr_accept (s t : State) (w : Word) :
    exec (s.accept w).latchedInstr t = exec (decodeWord w) t := by
  by_cases hr : reservedField w = 0
  · have hword : (s.accept w).latch.word = w := by
      rw [State.accept_latch, Latch.word, hr]
      conv_rhs => rw [← reservedField_append_opcodeField w, hr]
      rfl
    rw [State.latchedInstr, hword]
  · have hword : (s.accept w).latch.word = (1 : BitVec 28) ++ opcodeField w := by
      rw [State.accept_latch, Latch.word, if_pos (bne_iff_ne.mpr hr)]
    rw [State.latchedInstr, hword, decodeWord_of_reserved_ne_zero _ (by decide), ← reservedField_append_opcodeField w,
      decodeWord_of_reserved_ne_zero _ hr]
    rfl

theorem step_fetched (s : State) (w : Word) : step (s.fetched w) = exec (decodeWord w) (s.fetched w) :=
  (engineTurn_of_busy (s.fetched w) rfl).trans (exec_latchedInstr_accept ..)

theorem withFetchWord_eq_fetched (s : State) {n w : Nat} (h : w < 2 ^ n) :
    s.withFetchWord n w = s.fetched (BitVec.ofNat 32 w) := by
  rw [State.withFetchWord, Nat.mod_eq_of_lt h]

theorem decodeTableWord_eq {n w : Nat} (hn : n ≤ 32) (h : w < 2 ^ n) :
    decodeTableWord n w = some (decodeWord (BitVec.ofNat 32 w)) := by
  have h32 : w < 2 ^ 32 := h.trans_le (Nat.pow_le_pow_right (by decide) hn)
  rw [decodeTableWord, if_neg (by omega), decodeWrite, if_neg (by decide), if_neg (by omega)]

/-- Settles O7: both sides decode the same word (`decodeTableWord_eq`, `step_fetched`). -/
theorem acceptedWordRunsNext : Obligations.AcceptedWordRunsNext := by
  intro s n w hn h
  rw [withFetchWord_eq_fetched s h]
  exact ⟨_, decodeTableWord_eq hn h, step_fetched s _⟩

/-! ### NOP and the illegal command -/

/-- STATUS once a command that leaves SAT has ended: DONE, SAT as it was, and the error code with ERR. -/
theorem complete_fetched_statusWord (s : State) (w : Word) (e : ErrCode) :
    ((s.fetched w).complete e).statusWord =
      flagBit true <<< 1 ||| flagBit e.isError <<< 2 ||| flagBit s.sat <<< 4 ||| e.bits.setWidth 32 <<< 8 := by
  have hclear : flagBit false = 0 := rfl
  simp [State.statusWord, State.fetched, hclear]

/-- Settles O13: the completion of the accepted word's state (`step_fetched`), read field by field. -/
theorem nopOnlyCompletes : Obligations.NopOnlyCompletes := by
  intro s
  refine ⟨rfl, rfl, _, step_fetched s 0, rfl, ?_, rfl, rfl, rfl, rfl, fun hen => ?_⟩
  · refine (complete_fetched_statusWord s 0 .ok).trans ?_
    cases s.sat <;> rfl
  · rw [State.irq, complete_irqStatus_done, Bool.true_and, Bool.or_eq_true]
    exact .inl hen

/-- Settles O14: an illegal word decodes as one (`decodeWord_of_illegal`) and runs as one (`step_fetched`); the rest is
the completion's frame. -/
theorem illegalCommandFails : Obligations.IllegalCommandFails := by
  refine ⟨fun _ _ _ => rfl, fun s v h => ?_⟩
  rw [withFetchWord_eq_fetched s v.isLt, BitVec.ofNat_toNat, BitVec.setWidth_eq]
  refine ⟨(s.fetched v).complete .illegalCmd, ?_, rfl, ?_, rfl, rfl, rfl, rfl, ?_⟩
  · rw [step_fetched, decodeWord_of_illegal h]
    rfl
  · refine (complete_fetched_statusWord s v .illegalCmd).trans ?_
    cases s.sat <;> rfl
  · show ((opcodeField v).setWidth 32).toNat = v.toNat % 16
    rw [BitVec.toNat_setWidth_of_le (by decide), opcodeField_toNat]

end Sys2Proof.Machine
end

section
/-! The host's register writes: acceptance, the other rows of the window, and the accesses that have no effect
(45_control R290 to R296). -/

namespace Sys2Proof.Machine

section
variable {s : State} {es : List Event} {off : Nat} {v : Word}

theorem step_of_window_write (he : s.events = .host (.wr 32 off v) :: es) (h : off < 0x3000) (h4 : off % 4 = 0) :
    step s = .next ((s.rest es).writeReg (regAt off) v) := by
  refine (step_of_host he).trans (congrArg Host.Outcome.next ?_)
  obtain ⟨hout, -⟩ | ⟨-, -, -, hwr⟩ | ⟨-, hbad, -⟩ := hostWr_cases (s.rest es) 32 off v
  · omega
  · exact hwr
  · omega

theorem step_of_write_outside {width : Nat} (he : s.events = .host (.wr width off v) :: es) (h : 0x3000 ≤ off) :
    step s = .next (s.rest es) :=
  (step_of_host he).trans (congrArg Host.Outcome.next (if_pos h))

end

/-! ### CMD -/

theorem State.writeCmd_of_busy {s : State} (h : s.busy = true) (v : Word) : s.writeCmd v = { s with ovr := true } :=
  if_pos h

theorem State.writeCmd_of_idle {s : State} (h : s.busy = false) (v : Word) : s.writeCmd v = s.accept v :=
  if_neg (by simp [h])

theorem reservedField_bne_zero (w : Word) : (reservedField w != 0) = decide (w.toNat / 16 ≠ 0) := by
  rw [Bool.eq_iff_iff, bne_iff_ne, decide_eq_true_iff, ne_eq, reservedField_eq_zero_iff]

/-- Settles O4: the step is `accept`, whose latch takes the word's two fields. -/
theorem cmdWriteWhileIdleIsAccepted : Obligations.CmdWriteWhileIdleIsAccepted := by
  intro s es v he hidle
  have hstep : step s = .next ((s.rest es).writeCmd v) := step_of_window_write he (by decide) rfl
  rw [hstep, State.writeCmd_of_idle (s := s.rest es) hidle, State.accept, opcodeField_eq_setWidth,
    reservedField_bne_zero]
  rfl

/-- Settles O5: the step is `writeCmd` of a busy machine. -/
theorem cmdWriteWhileBusySetsOnlyOvr : Obligations.CmdWriteWhileBusySetsOnlyOvr := by
  intro s es v he hbusy
  have hstep : step s = .next ((s.rest es).writeCmd v) := step_of_window_write he (by decide) rfl
  exact hstep.trans (congrArg Host.Outcome.next (State.writeCmd_of_busy (s := s.rest es) hbusy v))

/-! ### Refused accesses -/

/-- Settles O50: a narrow or misaligned access to the window is the third case of `hostWr_cases` and `hostRd_cases`. -/
theorem refusedAccessOnlySetsTheMark : Obligations.RefusedAccessOnlySetsTheMark := by
  intro s es width off h hbad
  refine ⟨fun v he => (step_of_host he).trans (congrArg Host.Outcome.next ?_),
    fun he => (step_of_host he).trans (congrArg Host.Outcome.next ?_)⟩
  · obtain ⟨hout, -⟩ | ⟨-, hw, h4, -⟩ | ⟨-, -, hwr⟩ := hostWr_cases (s.rest es) width off v
    · omega
    · omega
    · exact hwr
  · obtain ⟨hout, -⟩ | ⟨-, hw, h4, -⟩ | ⟨-, -, hrd⟩ := hostRd_cases (s.rest es) width off
    · omega
    · omega
    · exact hrd

/-! ### The other rows of the window -/

theorem State.writeFreq_eq (s : State) (x : Byte) (v : Word) :
    s.writeFreq x v = { s with freq := if s.busy then s.freq else s.freq.set x v } := by
  rw [State.writeFreq]
  split <;> rfl

theorem State.writeFreq_get_self (s : State) (x : Byte) (v : Word) :
    (s.writeFreq x v).freq.get x = if s.busy then s.freq.get x else v := by
  rw [State.writeFreq_eq, apply_ite (Table.get · x), Table.get_set_self]

theorem State.writeFreq_get_of_ne (s : State) {x y : Byte} (h : y ≠ x) (v : Word) :
    (s.writeFreq x v).freq.get y = s.freq.get y := by
  rw [State.writeFreq_eq, apply_ite (Table.get · y), Table.get_set_of_ne _ h, ite_self]

section
variable {r : Reg} (hctrl : r ≠ .ctrl) (hcmd : r ≠ .cmd)
include hctrl hcmd

/-- The fields a write to a register other than CTRL and CMD can change (45_control R295, R296). -/
theorem writeReg_frame (s : State) (v : Word) :
    s.writeReg r v = { s with
      irqEn := (s.writeReg r v).irqEn
      irqStatus := (s.writeReg r v).irqStatus
      srcAddr := (s.writeReg r v).srcAddr
      srcLen := (s.writeReg r v).srcLen
      dstAddr := (s.writeReg r v).dstAddr
      dstCap := (s.writeReg r v).dstCap
      freq := (s.writeReg r v).freq } := by
  cases r with
  | ctrl => exact absurd rfl hctrl
  | cmd => exact absurd rfl hcmd
  | freq x =>
    have hwrite : s.writeReg (.freq x) v = s.writeFreq x v := rfl
    rw [hwrite, State.writeFreq_eq]
  | _ => rfl

/-- A write to a register other than CTRL and CMD leaves the value of every other register `q`. -/
theorem regValue_writeReg_of_ne (s : State) (v : Word) {q : Reg} (hq : q ≠ r) :
    (s.writeReg r v).regValue q = s.regValue q := by
  cases r with
  | ctrl => exact absurd rfl hctrl
  | cmd => exact absurd rfl hcmd
  | freq x =>
    have hwrite : s.writeReg (.freq x) v = s.writeFreq x v := rfl
    cases q with
    | freq y => exact s.writeFreq_get_of_ne (fun hyx => hq (congrArg Reg.freq hyx)) v
    | _ => rw [hwrite, State.writeFreq_eq]; rfl
  | _ =>
    -- `q` is `r` itself, against `hq`, or reads a field that the write leaves.
    cases q <;> trivial

end

/-- No register stands at a second offset (30_encoding R101, R103, R104). -/
theorem regAt_ne_of_offset {q : Reg} {n off : Nat} (hq : q ≠ .reserved) (hn : q.offset = some n) (h : off < 0x3000)
    (h4 : off % 4 = 0) (hoff : off ≠ n) : regAt off ≠ q := by
  intro hreg
  have hsome : q.offset = some off := (offset_eq_some_iff hq off).mpr ⟨h, h4, hreg⟩
  exact hoff (Option.some.inj (hsome.symm.trans hn))

/-- Settles O48: the step is `writeReg`, with its frame `writeReg_frame` and its row read off at each offset. -/
theorem hostWriteChangesOnlyTheRegisterWritten : Obligations.HostWriteChangesOnlyTheRegisterWritten := by
  refine ⟨fun s es off v he h h4 h8 hC => ?_, fun s es v he hv => ?_,
    fun s es width off v he h => step_of_write_outside he h⟩
  · have hctrl : regAt off ≠ .ctrl := regAt_ne_of_offset (by decide) rfl h h4 h8
    have hcmd : regAt off ≠ .cmd := regAt_ne_of_offset (by decide) rfl h h4 hC
    have row {n : Nat} (hoff : off = n) : (s.rest es).writeReg (regAt off) v = (s.rest es).writeReg (regAt n) v :=
      hoff ▸ rfl
    refine ⟨_, step_of_window_write he h h4, fun r hr => regValue_writeReg_of_ne hctrl hcmd (s.rest es) v hr,
      fun hoff => congrArg State.irqEn (row hoff), fun hoff => congrArg State.irqStatus (row hoff),
      fun hoff => congrArg State.srcAddr (row hoff), fun hoff => congrArg State.srcLen (row hoff),
      fun hoff => congrArg State.dstAddr (row hoff), fun hoff => congrArg State.dstCap (row hoff),
      fun x hoff => ?_, writeReg_frame hctrl hcmd (s.rest es) v⟩
    have hreg : regAt off = .freq x := hoff ▸ (regAt_of_offset (r := .freq x) rfl).2.2
    rw [hreg]
    exact (s.rest es).writeFreq_get_self x v
  · have hkeep : (s.rest es).writeReg .ctrl v = s.rest es := if_neg (Bool.eq_false_iff.mp hv)
    exact (step_of_window_write he (by decide) rfl).trans (congrArg Host.Outcome.next hkeep)

end Sys2Proof.Machine
end

section
/-! The host's reads: what each leaves of the state, and the value it returns (45_control R297, R300; 20_memory R93). -/

namespace Sys2Proof.Machine

section
variable {s : State} {es : List Event} {off : Nat}

theorem step_of_window_read (he : s.events = .host (.rd 32 off) :: es) (h : off < 0x3000) (h4 : off % 4 = 0) :
    step s = .next ((s.rest es).readReg off) := by
  refine (step_of_host he).trans (congrArg Host.Outcome.next ?_)
  obtain ⟨hout, -⟩ | ⟨-, -, -, hrd⟩ | ⟨-, hbad, -⟩ := hostRd_cases (s.rest es) 32 off
  · omega
  · exact hrd
  · omega

theorem step_of_read_outside {width : Nat} (he : s.events = .host (.rd width off) :: es) (h : 0x3000 ≤ off) :
    step s = .next ((s.rest es).readAny off) :=
  (step_of_host he).trans (congrArg Host.Outcome.next (if_pos h))

end

/-! ### What a read returns and leaves -/

/-- A register read adds its value to what the host observed; the value is the register's unless it may be any. -/
theorem readReg_returns (s : State) (off : Nat) : ∃ v,
    s.readReg off = { s with observed := .reg off (some v) :: s.observed, draws := (s.readReg off).draws } ∧
      (s.busy = false ∨ (regAt off).anyWhileBusy = false → v = s.regValue (regAt off)) := by
  obtain ⟨hbusy, hany, hread⟩ | ⟨-, hread⟩ := readReg_cases s off
  · rw [hread]
    exact ⟨_, s.readAny_eq off, fun hdefined => by simp [hbusy, hany] at hdefined⟩
  · rw [hread]
    exact ⟨_, rfl, fun _ => rfl⟩

/-- A memory read adds its byte to what the host observed; the byte is MEM's unless it may be any. -/
theorem hostMemRead_returns (s : State) (a : Word) : ∃ v,
    s.hostMemRead a = { s with observed := .mem a v :: s.observed, draws := (s.hostMemRead a).draws } ∧
      (s.busy = false ∨ s.latch.OutsideDest a.toNat → v = Memory.read s.mem a.toNat) := by
  obtain ⟨hbusy, hdest, hread⟩ | ⟨-, hread⟩ := hostMemRead_cases s a
  · rw [hread]
    exact ⟨_, rfl, fun hdefined => by simp [hbusy, (inDest_iff ..).mp hdest] at hdefined⟩
  · rw [hread]
    exact ⟨_, rfl, fun _ => rfl⟩

/-- The control registers below OUT_LEN are defined while busy too (45_control R297). -/
theorem anyWhileBusy_regAt_control : ∀ off < 0x030, (regAt off).anyWhileBusy = false := by
  decide

/-- NSYM counts the symbols that have a code (10_state R50). -/
theorem nsym_eq_length_filter (s : State) :
    s.nsym = ((List.range 256).filter (fun n => s.code.get (BitVec.ofNat 8 n) != [])).length := by
  rw [State.nsym, codedEntries, Table.pairs_eq, List.filter_map, List.length_map, symbols, List.filter_map,
    List.length_map]
  refine congrArg List.length (List.filter_congr fun n _ => ?_)
  rw [Bool.eq_iff_iff]
  simp

theorem regValue_nsym_toNat (s : State) :
    (s.regValue .nsym).toNat =
      ((List.range 256).filter (fun n => s.code.get (BitVec.ofNat 8 n) != [])).length := by
  rw [← nsym_eq_length_filter]
  refine toNat_ofNat_of_lt ?_
  rw [nsym_eq_length_filter]
  exact (List.length_filter_le ..).trans_lt (by simp)

/-- Settles O49: the three steps are `readReg`, `hostMemRead` and `readAny`; a register's value is then read off at its
offset. -/
theorem hostReadHasNoSideEffect : Obligations.HostReadHasNoSideEffect := by
  refine ⟨fun s es off he h h4 => ?_, fun s es a he => ?_, fun s es width off he h => ?_⟩
  · obtain ⟨v, hread, hv⟩ := readReg_returns (s.rest es) off
    have defined (hoff : s.busy = false ∨ off < 0x030 ∨ regAt off = .reserved) : v = s.regValue (regAt off) := by
      refine hv (hoff.imp_right fun hoff => ?_)
      obtain hlow | hreg := hoff
      · exact anyWhileBusy_regAt_control off hlow
      · rw [hreg]; rfl
    have low {r : Reg} {n : Nat} (hn : n < 0x030) (hreg : regAt n = r) (hoff : off = n) : v = s.regValue r := by
      subst hoff hreg
      exact defined (.inr (.inl hn))
    have idle (hidle : s.busy = false) {r : Reg} {n : Nat} (hr : r.offset = some n) (hoff : off = n) :
        v = s.regValue r := by
      rw [defined (.inl hidle), hoff, (regAt_of_offset hr).2.2]
    refine ⟨_, v, step_of_window_read he h h4, hread, defined, low (by decide) rfl, low (by decide) rfl,
      low (by decide) rfl, low (by decide) rfl, low (by decide) rfl, low (by decide) rfl, low (by decide) rfl,
      low (by decide) rfl, low (by decide) rfl, low (by decide) rfl, low (by decide) rfl, fun hgap => ?_,
      fun hidle => ⟨idle hidle (r := .outLen) rfl, idle hidle (r := .padCount) rfl, idle hidle (r := .tableLen) rfl,
        fun hoff => ?_, fun x => ⟨idle hidle (r := .freq x) rfl, idle hidle (r := .codeLen x) rfl,
          fun k hoff j hj => ?_⟩⟩⟩
    · have hreg : regAt off = .reserved := (regAt_eq_reserved_iff h h4).mpr hgap
      rw [defined (.inr (.inr hreg)), hreg]
      rfl
    · rw [idle hidle (r := .nsym) rfl hoff, regValue_nsym_toNat]
    · rw [idle hidle (r := .codeBits x k) rfl hoff]
      exact codeBitsWord_getLsbD _ _ hj
  · obtain ⟨v, hread, hv⟩ := hostMemRead_returns (s.rest es) a
    exact ⟨_, v, step_of_host he, hread, hv⟩
  · exact ⟨_, _, step_of_read_outside he h, (s.rest es).readAny_eq off⟩

end Sys2Proof.Machine
end

section
/-! How every command ends: the fields completion writes, the region check and the error codes past it (60_exceptions
R310 to R320). -/

namespace Sys2Proof.Machine

/-! ### Completion -/

theorem completionIrqBits_eq (e : ErrCode) : completionIrqBits e = if e = .ok then 0b01#2 else 0b11#2 := by
  cases e <;> rfl

/-- Settles O8: `State.complete` field by field, with ERR and the interrupt bits as conditions on the code. -/
theorem completionWritesTheseFields : Obligations.CompletionWritesTheseFields := by
  intro s e
  rw [← e.isError_eq, ← completionIrqBits_eq]
  rfl

/-- Settles O9: every command works and then completes (`exec_workEnds`), and its work writes those fields alone. -/
theorem everyCommandCompletes : Obligations.EveryCommandCompletes := by
  intro i s
  obtain ⟨u, e, hx, hw⟩ := exec_workEnds i s
  exact ⟨u.complete e, e, hx, congrArg (·.complete e) hw.worked⟩

/-! ### The region check and the codes past it -/

/-- The region check of command `i` passes on the latched regions; a command that uses none has nothing to check
(60_exceptions R312). -/
def RegionCheckPasses (i : Instr) (l : Latch) : Prop :=
  match i with
  | .freqAccum | .parseHeader => l.SourceInRange
  | .encode | .compress | .decompress => l.RegionsLegal
  | .nop | .freqClear | .buildCodes | .illegal _ _ => True

/-- The codes command `i` can end with once its region check has passed (60_exceptions R315). -/
def codesPastRegionCheck : Instr → List ErrCode
  | .nop | .freqClear | .buildCodes | .freqAccum => [.ok]
  | .encode => [.ok, .noCode, .dstOverflow]
  | .compress => [.ok, .dstOverflow]
  | .parseHeader => [.ok, .malformedHeader, .invalidPadding, .invalidCodeTable]
  | .decompress => [.ok, .malformedHeader, .invalidPadding, .invalidCodeTable, .unresolvableBits, .dstOverflow]
  | .illegal _ _ => [.illegalCmd]

theorem region_notMem_codesPastRegionCheck (i : Instr) : .region ∉ codesPastRegionCheck i := by
  cases i <;> simp [codesPastRegionCheck]

theorem eq_illegal_of_mem_codesPastRegionCheck {i : Instr} (h : .illegalCmd ∈ codesPastRegionCheck i) :
    ∃ o r, i = .illegal o r := by
  cases i with
  | illegal o r => exact ⟨o, r, rfl⟩
  | _ => simp [codesPastRegionCheck] at h

theorem encodeInto_ends (b : List Byte) (s : State) :
    ∃ (u : State) (e : ErrCode), encodeInto b s = .next (u.complete e) ∧ e ∈ [.ok, .dstOverflow] := by
  rcases encodeInto_cases b s with ⟨-, hx⟩ | ⟨-, hx⟩ <;> exact ⟨_, _, hx, by decide⟩

theorem ParserEnds.mem_codes {i : Instr} {s u : State} {e : ErrCode} (h : ParserEnds i s e u)
    (hi : i = .parseHeader ∨ i = .decompress) : e ∈ codesPastRegionCheck i := by
  cases h with
  | failed _ herr _ => rcases parseContainer_error herr with rfl | rfl | rfl <;> rcases hi with rfl | rfl <;> decide
  | parsed _ _ _ hmem honly =>
    rcases hi with rfl | rfl
    · rw [honly rfl]
      decide
    · exact List.subset_def.mp (by decide) hmem

/-- A command whose region check fails completes with REGION and does nothing else (60_exceptions R312, R313). -/
theorem exec_of_regionCheck_fails {i : Instr} {s : State} (h : ¬ RegionCheckPasses i s.latch) :
    exec i s = .next (s.complete .region) := by
  cases i with
  | nop | freqClear | buildCodes | illegal => exact absurd trivial h
  | freqAccum => exact exec_freqAccum_of_not_inRange h
  | encode => exact exec_encode_of_not_legal h
  | compress => exact exec_compress_of_not_legal h
  | parseHeader => exact exec_parseHeader_of_not_inRange h
  | decompress => exact exec_decompress_of_not_legal h

/-- A command whose region check passes ends with one of its own codes (60_exceptions R315). -/
theorem exec_of_regionCheck_passes {i : Instr} {s : State} (h : RegionCheckPasses i s.latch) :
    ∃ (u : State) (e : ErrCode), exec i s = .next (u.complete e) ∧ e ∈ codesPastRegionCheck i := by
  cases i with
  | nop => exact ⟨s, .ok, rfl, by decide⟩
  | freqClear => exact ⟨_, _, exec_freqClear s, by decide⟩
  | buildCodes => exact ⟨_, _, exec_buildCodes s, by decide⟩
  | illegal o r => exact ⟨s, .illegalCmd, rfl, List.mem_singleton_self _⟩
  | freqAccum => exact ⟨_, _, exec_freqAccum_of_inRange h, by decide⟩
  | encode =>
    cases hc : allCoded s.code s.sourceBytes with
    | false => exact ⟨_, _, exec_encode_of_codeless h hc, by decide⟩
    | true =>
      obtain ⟨u, e, hx, he⟩ := encodeInto_ends s.sourceBytes s
      exact ⟨u, e, (exec_encode_of_coded h hc).trans hx, List.subset_def.mp (by decide) he⟩
  | compress =>
    obtain ⟨u, e, hx, he⟩ := encodeInto_ends s.sourceBytes s.recoded
    exact ⟨u, e, (exec_compress_of_legal h).trans hx, he⟩
  | parseHeader =>
    obtain ⟨e, u, hx, hends⟩ := parserEnds_parseHeader h
    exact ⟨u, e, hx, hends.mem_codes (.inl rfl)⟩
  | decompress =>
    obtain ⟨e, u, hx, hends⟩ := parserEnds_decompress h
    exact ⟨u, e, hx, hends.mem_codes (.inr rfl)⟩

section
variable {i : Instr} {s t : State} (h : exec i s = .next t)
include h

/-- The state a command answers with: REGION alone, or a code from past the region check. -/
theorem exec_region_or_code :
    (¬ RegionCheckPasses i s.latch ∧ t = s.complete .region) ∨
      (RegionCheckPasses i s.latch ∧ t.errCode ∈ codesPastRegionCheck i) := by
  by_cases hpass : RegionCheckPasses i s.latch
  · obtain ⟨u, e, hx, he⟩ := exec_of_regionCheck_passes hpass
    obtain rfl := Host.Outcome.next.inj (h.symm.trans hx)
    exact .inr ⟨hpass, he⟩
  · exact .inl ⟨hpass, Host.Outcome.next.inj (h.symm.trans (exec_of_regionCheck_fails hpass))⟩

theorem errCode_eq_region_iff : t.errCode = .region ↔ ¬ RegionCheckPasses i s.latch := by
  rcases exec_region_or_code h with ⟨hfails, rfl⟩ | ⟨hpass, hcode⟩
  · exact iff_of_true rfl hfails
  · exact iff_of_false (fun he => region_notMem_codesPastRegionCheck i (he ▸ hcode)) (not_not_intro hpass)

theorem errCode_mem_region_cons : t.errCode ∈ .region :: codesPastRegionCheck i := by
  rcases exec_region_or_code h with ⟨-, rfl⟩ | ⟨-, hcode⟩
  · exact List.mem_cons_self
  · exact List.mem_cons_of_mem _ hcode

/-- Where the region check passes REGION drops out, above all for a command that has none. -/
theorem errCode_mem_of_regionCheck_passes (hpass : RegionCheckPasses i s.latch) :
    t.errCode ∈ codesPastRegionCheck i :=
  ((exec_region_or_code h).resolve_left fun hfails => hfails.1 hpass).2

/-- REGION and ILLEGAL_CMD are bare completions (60_exceptions R313). -/
theorem eq_complete_of_region_or_illegalCmd (he : t.errCode = .region ∨ t.errCode = .illegalCmd) :
    t = s.complete t.errCode := by
  rcases exec_region_or_code h with ⟨-, rfl⟩ | ⟨-, hcode⟩
  · rfl
  · rcases he with he | he <;> rw [he] at hcode
    · exact absurd hcode (region_notMem_codesPastRegionCheck i)
    · obtain ⟨o, r, rfl⟩ := eq_illegal_of_mem_codesPastRegionCheck hcode
      obtain rfl := Host.Outcome.next.inj h
      rfl

end

/-! ### The three statements -/

/-- Settles O10: REGION and the codes past the region check make up each command's row; without a region check REGION
drops out. -/
theorem errorCodesOfEachCommand : Obligations.ErrorCodesOfEachCommand := by
  intro s t
  have sole {i : Instr} {e : ErrCode} (hpass : RegionCheckPasses i s.latch) (hcodes : codesPastRegionCheck i = [e])
      (h : exec i s = .next t) : t.errCode = e :=
    List.mem_singleton.mp (hcodes ▸ errCode_mem_of_regionCheck_passes h hpass)
  have row {i : Instr} {codes : List ErrCode} (hcodes : .region :: codesPastRegionCheck i ⊆ codes)
      (h : exec i s = .next t) : t.errCode ∈ codes :=
    hcodes (errCode_mem_region_cons h)
  exact ⟨sole trivial rfl, sole trivial rfl, sole trivial rfl, fun o r => sole trivial rfl, row (by decide),
    row (by decide), row (by decide), row (by decide), row (by decide)⟩

theorem not_regionsLegal_iff (l : Latch) :
    ¬ l.RegionsLegal ↔ ¬ l.SourceInRange ∨ ¬ l.DestInRange ∨ l.RegionsOverlap := by
  rw [Latch.RegionsLegal, not_and_or, not_and_or, not_not]

/-- Settles O11: REGION is reported exactly when the command's region check fails (`errCode_eq_region_iff`). -/
theorem regionErrorExactlyWhenTheCheckFails : Obligations.RegionErrorExactlyWhenTheCheckFails := by
  intro s t
  refine ⟨fun h => ?_, fun h => ?_, fun h hregion => ?_⟩
  · rcases h with h | h <;> exact errCode_eq_region_iff h
  · rw [← not_regionsLegal_iff]
    rcases h with h | h | h <;> exact errCode_eq_region_iff h
  · rcases h with h | h | h | ⟨o, r, h⟩ <;> exact (errCode_eq_region_iff h).mp hregion trivial

/-- Settles O12: a bare completion of the accepted state keeps what acceptance keeps, and the results it zeroed. -/
theorem regionAndIllegalChangeNothing : Obligations.RegionAndIllegalChangeNothing := by
  intro s t v i h he
  have ht := eq_complete_of_region_or_illegalCmd h he
  refine ⟨ht, ?_⟩
  rw [ht]
  exact ⟨rfl, rfl, rfl, rfl, rfl, rfl, rfl⟩

end Sys2Proof.Machine
end

section
/-! Progress: no step stops the machine, and a busy machine comes to rest (70_reset R366, R367). -/

namespace Sys2Proof.Machine

/-! ### No step stops -/

theorem engineTurn_answers (s : State) : ∃ t, engineTurn s = .next t := by
  rcases engineTurn_cases s with ⟨-, hx⟩ | ⟨-, hx⟩
  · exact ⟨s, hx⟩
  · obtain ⟨u, e, hu⟩ := exec_answers s.latchedInstr s
    exact ⟨u.complete e, hx.trans hu⟩

/-- No step stops, whatever moves: the ENGINE's turn answers (`engineTurn_answers`), and the host's operations and
resets are functions (70_reset R367). -/
theorem step_answers (s : State) : ∃ t, step s = .next t := by
  have engine {u : State} (hx : step s = engineTurn u) : ∃ t, step s = .next t := hx ▸ engineTurn_answers u
  rcases step_cases s with ⟨-, e⟩ | ⟨es, -, e⟩ | ⟨v, es, -, e⟩ | ⟨es, -, e⟩ | ⟨w, off, v, es, -, e⟩ |
    ⟨w, off, es, -, e⟩ | ⟨a, b, es, -, e⟩ | ⟨a, es, -, e⟩ | ⟨es, -, -, e⟩ | ⟨es, -, -, e⟩
  · exact engine e
  · exact engine e
  · exact engine e
  · exact ⟨_, e⟩
  · exact ⟨_, e⟩
  · exact ⟨_, e⟩
  · exact ⟨_, e⟩
  · exact ⟨_, e⟩
  · exact engine e
  · exact ⟨_, e⟩

/-! ### What a step does to the running command -/

/-- The command runs or not as before, under the same latch, and the same events are pending. -/
structure CommandStands (s t : State) : Prop where
  busy : t.busy = s.busy
  latch : t.latch = s.latch
  events : t.events = s.events

theorem commandStands_hostRd (s : State) (w off : Nat) : CommandStands s (s.hostRd w off) := by
  rcases hostRd_cases s w off with ⟨-, e⟩ | ⟨-, -, -, e⟩ | ⟨-, -, e⟩ <;> rw [e]
  · exact ⟨rfl, rfl, rfl⟩
  · obtain ⟨v, hread, -⟩ := readReg_returns s off
    rw [hread]
    exact ⟨rfl, rfl, rfl⟩
  · exact ⟨rfl, rfl, rfl⟩

theorem commandStands_hostMemRead (s : State) (a : Word) : CommandStands s (s.hostMemRead a) := by
  obtain ⟨v, hread, -⟩ := hostMemRead_returns s a
  rw [hread]
  exact ⟨rfl, rfl, rfl⟩

/-- While busy a register write leaves the command running, unless it is a soft reset (45_control R291, R295). -/
theorem writeReg_stands_or_resets {s : State} (hb : s.busy = true) (r : Reg) (v : Word) :
    CommandStands s (s.writeReg r v) ∨ (r = .ctrl ∧ v.getLsbD 0 = true ∧ s.writeReg r v = s.resetBlock) := by
  by_cases hctrl : r = .ctrl
  · subst hctrl
    by_cases hv : v.getLsbD 0 = true
    · exact .inr ⟨rfl, hv, if_pos hv⟩
    · rw [State.writeReg_ctrl, if_neg hv]
      exact .inl ⟨rfl, rfl, rfl⟩
  · left
    by_cases hcmd : r = .cmd
    · have hwrite : s.writeReg r v = { s with ovr := true } := by rw [hcmd]; exact State.writeCmd_of_busy hb v
      rw [hwrite]
      exact ⟨rfl, rfl, rfl⟩
    · rw [writeReg_frame hctrl hcmd]
      exact ⟨rfl, rfl, rfl⟩

/-- The same of a host write at an offset, where CTRL stands at 0x008 alone. -/
theorem hostWr_stands_or_resets {s : State} (hb : s.busy = true) (w off : Nat) (v : Word) :
    CommandStands s (s.hostWr w off v) ∨
      (w = 32 ∧ off = 0x008 ∧ v.getLsbD 0 = true ∧ s.hostWr w off v = s.resetBlock) := by
  rcases hostWr_cases s w off v with ⟨-, e⟩ | ⟨hoff, hw, h4, e⟩ | ⟨-, -, e⟩ <;> rw [e]
  · exact .inl ⟨rfl, rfl, rfl⟩
  · refine (writeReg_stands_or_resets hb (regAt off) v).imp_right fun ⟨hctrl, hv, hreset⟩ => ⟨hw, ?_, hv, hreset⟩
    by_contra hne
    exact regAt_ne_of_offset (by decide) rfl hoff h4 hne hctrl
  · exact .inl ⟨rfl, rfl, rfl⟩

theorem engineTurn_completes {s t : State} (hb : s.busy = true) (h : engineTurn s = .next t) :
    t.busy = false ∧ t.done = true := by
  rcases engineTurn_next h with ⟨hidle, -⟩ | ⟨-, u, e, rfl, -⟩
  · exact absurd (hb.symm.trans hidle) (by decide)
  · exact ⟨rfl, rfl⟩

/-- The event that stands first is a hardware or a soft reset (70_reset R350, R352). -/
def ResetPending (s : State) : Prop :=
  ∃ es, s.events = .rst :: es ∨ ∃ v : Word, v.getLsbD 0 = true ∧ s.events = .host (.wr 32 0x008 v) :: es

/-- All that a step from `s` to `t` can mean for a running command. A step that leaves it running uses up an event. -/
inductive BusyStep (s t : State) : Prop
  | runs (ev : Event) (busy : t.busy = true) (latch : t.latch = s.latch) (events : s.events = ev :: t.events)
  | completes (busy : t.busy = false) (done : t.done = true)
  | resets (busy : t.busy = false) (pending : ResetPending s)

theorem BusyStep.of_stands {s t : State} {ev : Event} {es : List Event} (hb : s.busy = true)
    (he : s.events = ev :: es) (h : CommandStands (s.rest es) t) : BusyStep s t :=
  .runs ev (h.busy.trans hb) h.latch (he.trans (congrArg _ h.events.symm))

/-- Every step of a busy machine is one of the three, case by case over what a step can be. -/
theorem busyStep_of_step {s t : State} (hb : s.busy = true) (hstep : step s = .next t) : BusyStep s t := by
  have engine {u : State} (hu : u.busy = true) (hx : engineTurn u = .next t) : BusyStep s t :=
    let ⟨hidle, hdone⟩ := engineTurn_completes hu hx
    .completes hidle hdone
  rcases step_cases s with ⟨-, e⟩ | ⟨es, -, e⟩ | ⟨v, es, -, e⟩ | ⟨es, he, e⟩ | ⟨w, off, v, es, he, e⟩ |
    ⟨w, off, es, he, e⟩ | ⟨a, b, es, he, e⟩ | ⟨a, es, he, e⟩ | ⟨es, -, -, e⟩ | ⟨es, -, hidle, -⟩
  · exact engine hb (e.symm.trans hstep)
  · exact engine (u := s.rest es) hb (e.symm.trans hstep)
  · exact engine (u := (s.rest es).clearIrq v) hb (e.symm.trans hstep)
  · obtain rfl := Host.Outcome.next.inj (hstep.symm.trans e)
    exact .resets rfl ⟨es, .inl he⟩
  · obtain rfl := Host.Outcome.next.inj (hstep.symm.trans e)
    rcases hostWr_stands_or_resets (s := s.rest es) hb w off v with hstands | ⟨rfl, rfl, hv, hreset⟩
    · exact .of_stands hb he hstands
    · rw [hreset]
      exact .resets rfl ⟨es, .inr ⟨v, hv, he⟩⟩
  · obtain rfl := Host.Outcome.next.inj (hstep.symm.trans e)
    exact .of_stands hb he (commandStands_hostRd ..)
  · obtain rfl := Host.Outcome.next.inj (hstep.symm.trans e)
    exact .of_stands hb he ⟨rfl, rfl, rfl⟩
  · obtain rfl := Host.Outcome.next.inj (hstep.symm.trans e)
    exact .of_stands hb he (commandStands_hostMemRead ..)
  · exact engine hb (e.symm.trans hstep)
  · exact absurd (hb.symm.trans hidle) (by decide)

/-! ### Coming to rest -/

theorem run_succ_of_step {s t : State} (h : step s = .next t) (k : Nat) : core.run (k + 1) s = core.run k t := by
  have hcore : core.step s = .next t := h
  simp only [Host.Core.run, hcore]

/-- A busy machine is idle at the latest one step after its last pending event: each step that leaves the command
running uses up an event, and with none left the ENGINE completes it (70_reset R367; log 3). -/
theorem run_reaches_idle {s : State} (hb : s.busy = true) :
    ∃ k t, k ≤ s.events.length + 1 ∧ core.run k s = .next t ∧ t.busy = false := by
  obtain ⟨t, hstep⟩ := step_answers s
  cases busyStep_of_step hb hstep with
  | completes hidle _ | resets hidle _ => exact ⟨1, t, by omega, run_succ_of_step hstep 0, hidle⟩
  | runs ev hbusy _ hevents =>
    have hlen : s.events.length = t.events.length + 1 := congrArg List.length hevents
    obtain ⟨k, u, hk, hrun, hidle⟩ := run_reaches_idle hbusy
    exact ⟨k + 1, u, by omega, (run_succ_of_step hstep k).trans hrun, hidle⟩
termination_by s.events.length

/-- Settles O60: no step stops (`step_answers`), a busy step is one of three kinds (`busyStep_of_step`), and the kind
that leaves the command running can occur only once for each pending event (`run_reaches_idle`). -/
theorem busyMachineComesToRest : Obligations.BusyMachineComesToRest := by
  refine ⟨step_answers, fun s t hb hstep => ?_, fun s hb => run_reaches_idle hb⟩
  cases busyStep_of_step hb hstep with
  | runs _ hbusy hlatch _ => exact .inl ⟨hbusy, hlatch⟩
  | completes hidle hdone => exact .inr (.inl ⟨hidle, hdone⟩)
  | resets _ hpending => exact .inr (.inr hpending)

end Sys2Proof.Machine
end
